-- ==== Sys2Proof/Word.lean ====
section
/-! DEFINITION. The word types of the block (R10): a stream byte, a 7-bit group, a 64-bit value, a 67-bit command
word. Bit 0 is the least significant bit of each. -/

namespace Sys2Proof

/-- One byte of a stream, `b[7:0]` (R10, R54). -/
abbrev Byte := BitVec 8

/-- The 7 data bits of an encoded byte (R15 "Group", R70). -/
abbrev Group := BitVec 7

/-- A u64 bit pattern with no sign (R10, R26). -/
abbrev Value := BitVec 64

/-- One word on the CMD port, `op[66:64]` over `value[63:0]` (R73). -/
abbrev CmdWord := BitVec 67

end Sys2Proof
end

