-- ==== Sys2Proof/Syntax.lean ====
section
/-! DEFINITION. The commands of the block, one constructor per row of spec/opcode_table.json (R74). -/

namespace Sys2Proof

/-- A decoded command. Only ENC.START has an operand; the bits CMD[63:0] of every other command are ignored (R75) and
are not kept (log 11). -/
inductive Instr where
  | nop                        -- NOP, op 000 (R93)
  | encStart (value : Value)   -- ENC.START, op 001 (R106)
  | encAck                     -- ENC.ACK, op 010 (R108)
  | reserved011                -- reserved op 011 (R97)
  | reserved100                -- reserved op 100 (R97)
  | decStart                   -- DEC.START, op 101 (R136)
  | decAck                     -- DEC.ACK, op 110 (R138)
  | reserved111                -- reserved op 111 (R97)
  deriving DecidableEq, Repr, Inhabited

end Sys2Proof
end

