-- ==== Sys2Proof/WellFormed.lean ====
section
/-! DEFINITION. The checks on what comes from outside the typed model: a numeral taken as a command word (R73), an
assembler immediate and an assembler op code (R80). A decoded command needs none: every 64-bit value is legal (R106). -/

namespace Sys2Proof

/-- A numeral is a word of the 67-bit CMD port (R73). -/
def wordFits (w : Nat) : Bool := decide (w < 2 ^ 67)

/-- An assembler immediate is "representable in 64 bits": `-2^63 ≤ imm < 2^64` (R80). -/
def immFits (imm : Int) : Bool := decide (-(2 ^ 63) ≤ imm) && decide (imm < 2 ^ 64)

/-- The op code written in a `.cmd` line has three bits (R80). -/
def opFits (op : Nat) : Bool := decide (op < 8)

/-- Every command is well formed as syntax; ENC.START takes every 64-bit value (R106, R176). Named case by case so that
a new constructor must be considered here. -/
def Instr.wf : Instr → Bool
  | .nop => true
  | .encStart _ => true
  | .encAck => true
  | .reserved011 => true
  | .reserved100 => true
  | .decStart => true
  | .decAck => true
  | .reserved111 => true

end Sys2Proof
end

