-- ==== Sys2Proof/Decode.lean ====
section
/-! DEFINITION. The command decoder and, after it, the encoder, from the tables of R73, R74 and R77. -/

namespace Sys2Proof

/-- `CMD[66:64]` (R73). -/
def opField (w : CmdWord) : BitVec 3 := w.extractLsb' 64 3

/-- `CMD[63:0]` (R73, R75). -/
def valueField (w : CmdWord) : Value := w.extractLsb' 0 64

/-- The decoder: total over the 2^67 words, selected by `CMD[66:64]` alone (R74, R76). The reserved codes decode to
reserved commands of their own, "never a guessed instruction" (R97). -/
def decode (w : CmdWord) : Instr :=
  if opField w = 0b000#3 then .nop
  else if opField w = 0b001#3 then .encStart (valueField w)
  else if opField w = 0b010#3 then .encAck
  else if opField w = 0b011#3 then .reserved011
  else if opField w = 0b100#3 then .reserved100
  else if opField w = 0b101#3 then .decStart
  else if opField w = 0b110#3 then .decAck
  else .reserved111

/-- The op code of a command (R74). -/
def opOf : Instr → BitVec 3
  | .nop => 0b000#3
  | .encStart _ => 0b001#3
  | .encAck => 0b010#3
  | .reserved011 => 0b011#3
  | .reserved100 => 0b100#3
  | .decStart => 0b101#3
  | .decAck => 0b110#3
  | .reserved111 => 0b111#3

/-- The value field the encoder writes: the operand of ENC.START, 0 in the ignored bits of every other command (R75). -/
def valueOf : Instr → Value
  | .nop => 0
  | .encStart v => v
  | .encAck => 0
  | .reserved011 => 0
  | .reserved100 => 0
  | .decStart => 0
  | .decAck => 0
  | .reserved111 => 0

/-- A command word written `op:value` (R73, R77). -/
def cmdWord (op : BitVec 3) (value : Value) : CmdWord := op ++ value

/-- The encoder: the command word of a command, its ignored bits 0. -/
def encode (i : Instr) : CmdWord := cmdWord (opOf i) (valueOf i)

/-- The command our decoder reads from the bits `w` of a table row, bit 0 the least significant bit of the one 67-bit
word. CMD is a parallel port (R57, R73), so the word is given to `decode` as it stands; a numeral that has bits above
bit 66 is no command word and is rejected. `nbits` adds nothing: bits the caller leaves out are 0 in `w` (log 12). -/
def decodeTableWord (_nbits w : Nat) : Option Instr :=
  if wordFits w then some (decode (BitVec.ofNat 67 w)) else none

end Sys2Proof
end

