-- ==== Sys2Proof/Config.lean ====
section
/-! DEFINITION. What stands outside the block and is not its state: the fixed parameters of R6, the open timing
parameters of R7 and R210, the moves the environment may make (R8, R9, R52, R53, R81), and the free values that say
which move comes where nothing is placed (log 3). -/

namespace Sys2Proof

/-- The sink's answer to one offered byte (R52). No answer at all is a schedule without a sink turn. -/
inductive SinkAnswer where
  | accept
  | reject
  deriving DecidableEq, Repr, Inhabited

/-- How the source answers one request (R53): `serve` gives the head of the bytes it holds, or FAIL when it holds none
(end-of-stream); `fail` is any other collaborator failure, with the bytes kept. -/
inductive SourceMove where
  | serve
  | fail
  deriving DecidableEq, Repr, Inhabited

/-- One action of the host: present a command word (R90), read a port (R32, R33), or one of the polls and guarded reads
of the pseudo-instructions (R81). `readResultIfDone` is DECODE's guarded read as one action, the model's choice (log 19). -/
inductive HostItem where
  | present (w : CmdWord)
  | readStatus
  | readResult
  | readResultIfDone
  | waitEnc
  | waitDec
  deriving DecidableEq, Repr, Inhabited

/-- Which agent moves in one step, and with what answer (R8, R9). `otherSink bs` is another user of the sink's stream
object writing `bs` there; `otherSource rest` is another user of the source's stream object leaving it holding `rest`
(R62, R136, R144, R207; log 7). -/
inductive Turn where
  | host
  | sink (a : SinkAnswer)
  | source (m : SourceMove)
  | reset
  | otherSink (bs : List Byte)
  | otherSource (rest : List Byte)
  deriving DecidableEq, Repr, Inhabited

/-- `G`, the group width (R6). -/
abbrev Config.groupWidth : Nat := 7

/-- `SHIFT_LIMIT`: a byte read at this shift or above overflows (R6, R134). -/
abbrev Config.shiftLimit : Nat := 64

/-- `LMAX`, the longest encoding in bytes (R6). -/
abbrev Config.maxLength : Nat := 10

/-- FREE VALUE: the `n`-th turn drawn where the schedule lists none (R8 "leaves the schedule open", U3, V11; log 3).
DESIGN CHOICE: every instance of a system reads this one function at its own counter (log 21). -/
opaque Config.freeTurn : Nat → Turn

/-- FREE VALUE: the `n`-th host action drawn where the script lists none (R9, R90; log 3), one function for
all instances (log 21). -/
opaque Config.freeItem : Nat → HostItem

/-- FREE VALUE: the bits the register `enc_rem` has at reset, where the spec says that it holds no value (R20, R37, V1).
Nothing constrains them; N8 forbids taking them for 0 (log 2). -/
opaque Config.encRemAtReset : Value

/-- FREE VALUE: the bits the register `dec_acc` has at reset, where the spec says that it holds no value (R22, R37, V1).
Nothing constrains them; N8 forbids taking them for 0 (log 2). -/
opaque Config.decAccAtReset : Value

/-- OPEN parameter `T_CMD`; nothing depends on it (R7, R210, D21, V9). DESIGN CHOICE: the spec says "any positive duration"
and gives neither a unit nor a domain; the model counts each delay as a positive whole number of one unit (log 10). -/
opaque Config.tCmd : ℕ+

/-- OPEN parameter `T_ENC_BYTE` (R7, R210, D21, V9); its domain is the model's choice, as that of `tCmd` is (log 10). -/
opaque Config.tEncByte : ℕ+

/-- OPEN parameter `T_DEC_BYTE` (R7, R210, D21, V9); its domain is the model's choice, as that of `tCmd` is (log 10). -/
opaque Config.tDecByte : ℕ+

end Sys2Proof
end

