-- ==== Sys2Proof/Machine/State.lean ====
section
/-! DEFINITION. The state of the machine, everything the spec gives it (10_state.md R20 to R39, 20_memory.md R51 to R53),
its faults and refusals, and the state right after reset (R37). -/

namespace Sys2Proof.Machine

/-- `enc_state` (R24). -/
inductive EncState where
  | idle
  | emitting
  | done
  | failed
  deriving DecidableEq, Repr, Inhabited

/-- `dec_state` (R25). -/
inductive DecState where
  | idle
  | accumulating
  | done
  | failed
  deriving DecidableEq, Repr, Inhabited

/-- `dec_err` (R27); the code 11 is never produced and has no constructor. -/
inductive DecErr where
  | none
  | overflow
  | stream
  deriving DecidableEq, Repr, Inhabited

/-- The four error events of the block (R170). -/
inductive ErrorEvent where
  | overflow
  | stream
  | sinkReject
  | cmdIllegal
  deriving DecidableEq, Repr

/-- The answer of a `SourceRead()` (R12, R53). -/
inductive SourceAnswer where
  | byte (b : Byte)
  | fail
  deriving DecidableEq, Repr

/-- A 64-bit datapath register: its bits, and whether they are a value. `held = false` is the spec's `none`, "holds no
value" (R12): the register has bits, as every register does, and no claim of the spec's model may rest on them (log 2). -/
structure DataReg where
  /-- The 64 bits. -/
  bits : Value
  /-- Whether the bits are a value; `false` is the spec's `none`. -/
  held : Bool
  deriving DecidableEq, Repr

/-- A register that holds the value `v`. -/
abbrev DataReg.of (v : Value) : DataReg := ⟨v, true⟩

/-- The spec's `none`, in a register whose bits are `v`. -/
abbrev DataReg.none (v : Value) : DataReg := ⟨v, false⟩

/-- The encoder engine's registers (R39: shared with nothing). -/
structure EncEngine where
  /-- `enc_state` (R24). -/
  state : EncState
  /-- `enc_rem` (R20), with the spec's `none` (R12, R37, R200). -/
  rem : DataReg
  /-- `enc_count` (R21). -/
  count : BitVec 4
  deriving DecidableEq, Repr

/-- The decoder engine's registers (R39: shared with nothing). -/
structure DecEngine where
  /-- `dec_state` (R25). -/
  state : DecState
  /-- `dec_acc` (R22), with the spec's `none` (R12, R37, R200). -/
  acc : DataReg
  /-- `dec_shift` (R23). -/
  shift : BitVec 7
  /-- `dec_err` (R27). -/
  err : DecErr
  deriving DecidableEq, Repr

/-- The whole state: the block's registers, the two stream objects bound to it, and the model's own record of what the
host and the schedule still hold. -/
structure State where
  /-- Encoder engine (R20, R21, R24). -/
  enc : EncEngine
  /-- Decoder engine (R22, R23, R25, R27). -/
  dec : DecEngine
  /-- `cmd_illegal`, sticky until reset (R28). -/
  cmdIllegal : Bool
  /-- `sink_log`: the bytes the sink has accepted, in order (R52). -/
  sinkLog : List Byte
  /-- `src_rest`: the bytes the source still holds, in order (R53). -/
  srcRest : List Byte
  /-- The stream object bound as sink: configuration of the instance, fixed for every call (R51, D20). DESIGN CHOICE: the
  spec does not say whether an idle engine may be bound anew between calls; here no step ever changes it (log 20). -/
  sinkObj : Nat
  /-- The stream object bound as source: configuration of the instance, fixed for every call (R51, D20). DESIGN CHOICE:
  no step ever changes it, between calls neither (log 20). -/
  srcObj : Nat
  /-- The model's own: the host's remaining actions, first one next (R80, R81, R90; log 3). -/
  script : List HostItem
  /-- The model's own: the turns placed, first one next (R8; log 3). -/
  schedule : List Turn
  /-- The model's own: how many free values have been drawn (log 3). -/
  draws : Nat
  /-- The model's own: this run has raised the spec's model fault CmdIllegal (R92, R203; log 1). -/
  faulted : Bool
  /-- The model's own: this run has read `enc_rem` while it held no value, the spec's model fault of R12 (log 2). -/
  encRemFaulted : Bool
  /-- The model's own: this run has read `dec_acc` while it held no value, the spec's model fault of R12 (log 2). -/
  decAccFaulted : Bool
  deriving DecidableEq, Repr

/-- Why a step stops. -/
inductive Fault where
  /-- The spec's model fault for ENC.EMIT reading `enc_rem` while it holds no value (R12, V1, D28). Raised by
  `State.specFault` in Safety.lean only; `step` is the hardware, which goes on with the bits (log 2). Safe: the run stops. -/
  | encRemNotHeld
  /-- The spec's model fault for DEC.READ or a DEC_RESULT read that reads `dec_acc` while it holds no value (R12, V1, D28).
  Raised by `State.specFault` in Safety.lean only; `step` goes on with the bits (log 2). Safe: the run stops. -/
  | decAccNotHeld
  /-- Raised by a host read of DEC_RESULT while `dec_state` is not DONE (R32, R206, V2). Safe: the run stops. -/
  | resultNotValid
  /-- The spec's model fault for an inadmissible or reserved command (R92, R97). Raised by `State.specFault` in
  Safety.lean only; `step` is the hardware, which sets the sticky bit and goes on (log 1). Safe: the run stops. -/
  | cmdIllegal
  deriving DecidableEq, Repr

/-- Why the model does not admit a run. -/
inductive Refusal where
  /-- An instruction that has no meaning yet: raised by no arm, every row of the table has its meaning. Safe. -/
  | notModelled (mnemonic : String)
  /-- Raised by `step` when the encoder's sink and the decoder's source, or the streams of two instances, are one
  object (R62, U1). Safe: the model gives such a run no meaning. -/
  | sharedStream
  /-- Raised by a turn in which another user touches the stream object of a busy engine (R62, R207, U1). Safe. -/
  | streamInUse
  deriving DecidableEq, Repr

/-- The encoder's registers after reset: `enc_rem` is the spec's `none` (R37, R200). DESIGN CHOICE: the bits under it are
the free value `Config.encRemAtReset`, the same at every reset (log 2). -/
def EncEngine.reset : EncEngine := ⟨.idle, .none Config.encRemAtReset, 0⟩

/-- The decoder's registers after reset: `dec_acc` is the spec's `none` (R37, R200). DESIGN CHOICE: the bits under it are
the free value `Config.decAccAtReset`, the same at every reset (log 2). -/
def DecEngine.reset : DecEngine := ⟨.idle, .none Config.decAccAtReset, 0, .none⟩

/-- The machine right after reset (R37). The spec gives the streams, their binding and the host no reset value; what
stands here for them is a DESIGN CHOICE (log 6). -/
def State.reset : State where
  enc := EncEngine.reset
  dec := DecEngine.reset
  cmdIllegal := false
  sinkLog := []
  srcRest := []
  sinkObj := 0
  srcObj := 1
  script := []
  schedule := []
  draws := 0
  faulted := false
  encRemFaulted := false
  decAccFaulted := false

end Sys2Proof.Machine
end

