-- ==== Sys2Proof/Machine/Operands.lean ====
section
/-! DEFINITION. The combinational datapath elements of both engines (R101 to R105, R131 to R135) and the readings of a
64-bit pattern as an integer (R11). -/

namespace Sys2Proof.Machine

/-! ## Encoder datapath -/

/-- Group extractor: the low 7 bits of the remaining value (R101). -/
def encGroup (rem : Value) : Group := rem.extractLsb' 0 7

/-- Remainder shifter: a logical right shift by 7 (R11, R102). -/
def remNext (rem : Value) : Value := rem >>> Config.groupWidth

/-- Zero detector: is the SHIFTED value zero? (R104) -/
def isLast (rem : Value) : Bool := remNext rem == 0

/-- Continuation-flag multiplexer: bit 7 clear on the last byte, set on every other (R105). -/
def contMux (last : Bool) (g : Group) : Byte := (if last then 0#1 else 1#1) ++ g

/-- The byte one ENC.EMIT step offers to the sink (R101, R104, R105). -/
def emitByte (rem : Value) : Byte := contMux (isLast rem) (encGroup rem)

/-! ## Decoder datapath -/

/-- Continuation-bit detector: bit 7 of the byte read (R131). -/
def contBit (b : Byte) : Bool := b.getLsbD 7

/-- Group extractor: the low 7 bits of the byte read (R132). -/
def byteGroup (b : Byte) : Group := b.extractLsb' 0 7

/-- `zext_64` (R11). -/
def zext64 (g : Group) : Value := g.setWidth 64

/-- Result shifter and combiner: the group shifted left inside 64 bits, bits past bit 63 lost, ORed in (R133). -/
def accNext (acc : Value) (g : Group) (shift : BitVec 7) : Value := acc ||| (zext64 g <<< shift.toNat)

/-- Overflow comparator `dec_shift ≥ 64` (R134). -/
def shiftOverflow (shift : BitVec 7) : Bool := decide (Config.shiftLimit ≤ shift.toNat)

/-- Shift incrementer (R135). -/
def shiftNext (shift : BitVec 7) : BitVec 7 := shift + 7

/-! ## Readings of a 64-bit pattern -/

/-- `u64_of(s) = s mod 2^64`, what a host holding the integer `s` presents (R11, R26, R103). -/
def u64Of (s : Int) : Value := BitVec.ofNat 64 (s % 2 ^ 64).toNat

/-- `signed64(x)`, the two's-complement reading of a pattern (R11, R26, R145). -/
def signed64 (x : Value) : Int := if x.getLsbD 63 then (x.toNat : Int) - 2 ^ 64 else (x.toNat : Int)

end Sys2Proof.Machine
end

