-- ==== Sys2Proof/Machine/Flags.lean ====
section
/-! DEFINITION. The status codes (R78), the STATUS word (R31), the result ports (R32) and the admissibility of a command
(R91). All are functions of the state; reading one changes nothing (R55). -/

namespace Sys2Proof.Machine

/-- The code of `enc_state` in STATUS (R78). -/
def EncState.code : EncState → BitVec 2
  | .idle => 0b00#2
  | .emitting => 0b01#2
  | .done => 0b10#2
  | .failed => 0b11#2

/-- The code of `dec_state` in STATUS (R78). -/
def DecState.code : DecState → BitVec 2
  | .idle => 0b00#2
  | .accumulating => 0b01#2
  | .done => 0b10#2
  | .failed => 0b11#2

/-- The code of `dec_err` in STATUS (R78). -/
def DecErr.code : DecErr → BitVec 2
  | .none => 0b00#2
  | .overflow => 0b01#2
  | .stream => 0b10#2

/-- The 32-bit STATUS word, fields from the top: reserved [31:18] = 0, CMD_ILLEGAL [17], DEC_SHIFT [16:10],
DEC_ERR [9:8], DEC_STATE [7:6], ENC_COUNT [5:2], ENC_STATE [1:0] (R31, R79). -/
def State.status (s : State) : BitVec 32 :=
  0#14 ++ BitVec.ofBool s.cmdIllegal ++ s.dec.shift ++ s.dec.err.code ++ s.dec.state.code ++ s.enc.count
    ++ s.enc.state.code

/-- DEC_RESULT_VALID (R32). -/
def State.decResultValid (s : State) : Bool := s.dec.state == .done

/-- A read of DEC_RESULT: the accumulator in DONE, a fault in every other state, never a number there (R32, R180, R206). -/
def State.readDecResult (s : State) : Except Fault Value :=
  if s.decResultValid then .ok s.dec.acc.bits else .error .resultNotValid

/-- ENC_STATE in {10, 11}, the condition a WAIT.ENC poll waits for, read off STATUS[1:0] (R81). -/
def State.encEnded (s : State) : Bool := (s.status.extractLsb' 0 2) == 0b10#2 || (s.status.extractLsb' 0 2) == 0b11#2

/-- DEC_STATE in {10, 11}, the condition a WAIT.DEC poll waits for, read off STATUS[7:6] (R81). -/
def State.decEnded (s : State) : Bool := (s.status.extractLsb' 6 2) == 0b10#2 || (s.status.extractLsb' 6 2) == 0b11#2

/-- STATUS[7:6] = 10, the condition under which DECODE reads the result (R81). -/
def State.decDone (s : State) : Bool := (s.status.extractLsb' 6 2) == 0b10#2

/-- The admissibility table, a function of the state alone (R91). -/
def admissible (i : Instr) (s : State) : Bool :=
  match i with
  | .nop => true
  | .encStart _ => s.enc.state == .idle
  | .encAck => s.enc.state == .done || s.enc.state == .failed
  | .reserved011 => false
  | .reserved100 => false
  | .decStart => s.dec.state == .idle
  | .decAck => s.dec.state == .done || s.dec.state == .failed
  | .reserved111 => false

end Sys2Proof.Machine
end

