-- ==== Sys2Proof/Machine/Ops.lean ====
section
/-! DEFINITION. The named operations over the engines' registers and the two streams, the entry into an error (R92,
R179) and the return from one (R108, R138, R181), and the reset of the block (R200). -/

namespace Sys2Proof.Machine

/-- The outcome of a step of this machine. -/
abbrev Outcome := Host.Outcome State Fault Refusal

/-! ## Replacing one part of the state -/

/-- Replaces the encoder's registers. -/
def State.setEnc (s : State) (e : EncEngine) : State := { s with enc := e }

/-- Replaces the decoder's registers. -/
def State.setDec (s : State) (d : DecEngine) : State := { s with dec := d }

/-- Replaces what the sink has accepted. -/
def State.setSinkLog (s : State) (l : List Byte) : State := { s with sinkLog := l }

/-- Replaces what the source still holds. -/
def State.setSrcRest (s : State) (l : List Byte) : State := { s with srcRest := l }

/-- Replaces the host's remaining actions. -/
def State.setScript (s : State) (l : List HostItem) : State := { s with script := l }

/-- Replaces the turns placed. -/
def State.setSchedule (s : State) (l : List Turn) : State := { s with schedule := l }

/-- Counts one more free value as drawn. -/
def State.countDraw (s : State) : State := { s with draws := s.draws + 1 }

/-! ## Reading a datapath register -/

/-- What reading `enc_rem` does to the run: nothing while it holds a value; while it is the spec's `none`, the run is marked
as one the spec's model faults (R12, V1, D28). DESIGN CHOICE: the hardware goes on with the register's bits (log 2). -/
def State.noteEncRem (s : State) : State := { s with encRemFaulted := s.encRemFaulted || !s.enc.rem.held }

/-- What reading `dec_acc` does to the run, in the same way (R12, V1, D28; log 2). -/
def State.noteDecAcc (s : State) : State := { s with decAccFaulted := s.decAccFaulted || !s.dec.acc.held }

/-! ## The two stream primitives (R12) -/

/-- `SinkWrite(b)` with its answer: ACCEPT appends b, REJECT leaves the sink as it was (R52, D15). -/
def sinkWrite (b : Byte) (a : SinkAnswer) (s : State) : State :=
  match a with
  | .accept => s.setSinkLog (s.sinkLog ++ [b])
  | .reject => s

/-- `SourceRead()`: the head of what the source holds, consumed; FAIL at end-of-stream or on any other failure, with
nothing consumed (R53, R55; log 5). -/
def sourceRead (m : SourceMove) (s : State) : SourceAnswer × State :=
  match m with
  | .fail => (.fail, s)
  | .serve =>
    match s.srcRest with
    | [] => (.fail, s)
    | b :: rest => (.byte b, s.setSrcRest rest)

/-! ## Error entry and return -/

/-- Error entry, the one place where an error event is recorded (R170, R179, R92): the engine goes to FAILED, the decoder
writes `dec_err`, nothing else changes. CMD_ILLEGAL sets the sticky bit and leaves both engines alone; the model marks
the run as one the spec's model faults (R175, R203; log 1). -/
def State.raise (s : State) (e : ErrorEvent) : State :=
  match e with
  | .overflow => s.setDec { s.dec with state := .failed, err := .overflow }
  | .stream => s.setDec { s.dec with state := .failed, err := .stream }
  | .sinkReject => s.setEnc { s.enc with state := .failed }
  | .cmdIllegal => { s with cmdIllegal := true, faulted := true }

/-- Return of the encoder to IDLE; `enc_count` and `enc_rem` are held (R108, R181). -/
def State.encReturn (s : State) : State := s.setEnc { s.enc with state := .idle }

/-- Return of the decoder to IDLE, `dec_err` cleared; `dec_shift` and `dec_acc` are held (R138, R181). -/
def State.decReturn (s : State) : State := s.setDec { s.dec with state := .idle, err := .none }

/-! ## Beginning a call -/

/-- The registers ENC.START writes (R106). -/
def State.encBegin (s : State) (value : Value) : State := s.setEnc ⟨.emitting, .of value, 0⟩

/-- The registers DEC.START writes (R136). -/
def State.decBegin (s : State) : State := s.setDec ⟨.accumulating, .of 0, 0, .none⟩

/-! ## Command acceptance -/

/-- Acceptance of a command (R90): its effect if it is admissible (R91), otherwise the illegal-command event and nothing
else (R92). -/
def accept (i : Instr) (effect : State → State) (s : State) : Outcome :=
  if admissible i s then .next (effect s) else .next (s.raise .cmdIllegal)

/-! ## Reset -/

/-- Reset of the block, in any state (R200): its registers take their reset values. Completed stream transfers stay
(R201), the host's script goes on (log 8), and a run that faulted stays faulted (R203; the marks of log 2 too). -/
def State.resetBlock (s : State) : State :=
  { s with enc := EncEngine.reset, dec := DecEngine.reset, cmdIllegal := false }

end Sys2Proof.Machine
end

