-- ==== Sys2Proof/Machine/Command.lean ====
section
/-! DEFINITION. The commands addressed to no engine: NOP (R93) and the reserved codes (R97). -/

namespace Sys2Proof.Machine

/-- NOP: no state change, always admissible (R93). -/
def execNop (s : State) : Outcome := accept .nop id s

/-- Reserved code 011: never admissible (R97, R92). -/
def execReserved011 (s : State) : Outcome := accept .reserved011 id s

/-- Reserved code 100: never admissible (R97, R92). -/
def execReserved100 (s : State) : Outcome := accept .reserved100 id s

/-- Reserved code 111: never admissible (R97, R92). -/
def execReserved111 (s : State) : Outcome := accept .reserved111 id s

end Sys2Proof.Machine
end

