-- ==== Sys2Proof/Machine/Decoder.lean ====
section
/-! DEFINITION. The decoder: DEC.START (R136), the engine step DEC.READ (R137), DEC.ACK (R138). -/

namespace Sys2Proof.Machine

/-- DEC.START: begin a decode call; no byte is read by the command itself (R136). -/
def execDecStart (s : State) : Outcome := accept .decStart State.decBegin s

/-- DEC.ACK: end a decode call (R138). -/
def execDecAck (s : State) : Outcome := accept .decAck State.decReturn s

/-- The registers after a byte `b` was combined into the accumulator `acc` (R137). -/
def DecEngine.afterByte (d : DecEngine) (acc : Value) (b : Byte) : DecEngine :=
  ⟨if contBit b then .accumulating else .done, .of (accNext acc (byteGroup b) d.shift), shiftNext d.shift, d.err⟩

/-- What DEC.READ does with a byte it has read, in the state after the read (R137): overflow is tested before the byte
is looked at, and then the byte is lost (R141, R142). A `dec_acc` that is the spec's `none` is read as the bits it has, and
the run is marked (R12; log 2); no state of the invariants has one in ACCUMULATING. -/
def decTake (b : Byte) (s : State) : State :=
  if shiftOverflow s.dec.shift then s.raise .overflow
  else s.noteDecAcc.setDec (s.dec.afterByte s.dec.acc.bits b)

/-- DEC.READ: the source answers the request; the read comes before the overflow check (R137, R139, R140, R177). The step
is enabled only in ACCUMULATING; elsewhere nothing is requested and the turn changes nothing (log 4). -/
def decRead (m : SourceMove) (s : State) : Outcome :=
  match s.dec.state with
  | .accumulating =>
    match sourceRead m s with
    | (.fail, s') => .next (s'.raise .stream)
    | (.byte b, s') => .next (decTake b s')
  | .idle => .next s
  | .done => .next s
  | .failed => .next s

end Sys2Proof.Machine
end

