-- ==== Sys2Proof/Machine/Encoder.lean ====
section
/-! DEFINITION. The encoder: ENC.START (R106), the engine step ENC.EMIT (R107), ENC.ACK (R108). -/

namespace Sys2Proof.Machine

/-- ENC.START: begin an encode call of `value`; no byte is written by the command itself (R106). -/
def execEncStart (value : Value) (s : State) : Outcome := accept (.encStart value) (fun t => t.encBegin value) s

/-- ENC.ACK: end an encode call (R108). -/
def execEncAck (s : State) : Outcome := accept .encAck State.encReturn s

/-- The registers after the sink accepted a byte (R107). -/
def EncEngine.afterAccept (e : EncEngine) (rem : Value) : EncEngine :=
  ⟨if isLast rem then .done else .emitting, .of (remNext rem), e.count + 1⟩

/-- What ENC.EMIT does with the remaining value it has read, in the state after the read (R107, R109). -/
def encOffer (rem : Value) (a : SinkAnswer) (s : State) : State :=
  match a with
  | .accept => (sinkWrite (emitByte rem) .accept s).setEnc (s.enc.afterAccept rem)
  | .reject => (sinkWrite (emitByte rem) .reject s).raise .sinkReject

/-- ENC.EMIT: the sink answers the byte offered (R107, R109). The step is enabled only in EMITTING; elsewhere nothing is
offered, so there is nothing to answer and the turn changes nothing (log 4). An `enc_rem` that is the spec's `none` is
read as the bits it has, and the run is marked (R12; log 2); no state of the invariants has one in EMITTING. -/
def encEmit (a : SinkAnswer) (s : State) : Outcome :=
  match s.enc.state with
  | .emitting => .next (encOffer s.enc.rem.bits a s.noteEncRem)
  | .idle => .next s
  | .done => .next s
  | .failed => .next s

end Sys2Proof.Machine
end

