-- ==== Sys2Proof/Machine/Dispatch.lean ====
section
/-! DEFINITION. One arm per command: which meaning runs (R74). -/

namespace Sys2Proof.Machine

def exec (i : Instr) (s : State) : Host.Outcome State Fault Refusal :=
  match i with
  | .nop => Sys2Proof.Machine.execNop s
  | .encStart value => Sys2Proof.Machine.execEncStart value s
  | .encAck => Sys2Proof.Machine.execEncAck s
  | .reserved011 => Sys2Proof.Machine.execReserved011 s
  | .reserved100 => Sys2Proof.Machine.execReserved100 s
  | .decStart => Sys2Proof.Machine.execDecStart s
  | .decAck => Sys2Proof.Machine.execDecAck s
  | .reserved111 => Sys2Proof.Machine.execReserved111 s

end Sys2Proof.Machine
end

