-- ==== Sys2Proof/Machine/Turns.lean ====
section
/-! DEFINITION. One step of the whole machine: whose turn it is (R8, R9), the host's actions (R81, R90), other users of
the streams (R62, R207), and where a command word is placed so that it is the next one taken. -/

namespace Sys2Proof.Machine

/-- Takes the next turn: the first one placed, or a free one where none is (R8, V11; log 3). -/
def nextTurn (s : State) : Turn × State :=
  match s.schedule with
  | t :: rest => (t, s.setSchedule rest)
  | [] => (Config.freeTurn s.draws, s.countDraw)

/-- Takes the host's next action: the first of its script, or a free one where the script is empty (R9; log 3). -/
def nextItem (s : State) : HostItem × State :=
  match s.script with
  | i :: rest => (i, s.setScript rest)
  | [] => (Config.freeItem s.draws, s.countDraw)

/-- A host read of DEC_RESULT: no side effect in DONE, a fault elsewhere (R32, R55, R206; log 18). It reads `dec_acc`, so a
register that holds no value marks the run (R12; log 2). -/
def hostReadResult (s : State) : Outcome :=
  match s.readDecResult with
  | .ok _ => .next s.noteDecAcc
  | .error f => .fault f

/-- One read of a poll: the poll is over if its condition holds, otherwise it stands first in the script again (R81).
DESIGN CHOICE: each sample of STATUS is one host action, and other agents may step between two of them (log 19). -/
def hostPoll (ended : Bool) (poll : HostItem) (s : State) : Outcome :=
  .next (if ended then s else s.setScript (poll :: s.script))

/-- One action of the host, in the state after it was taken from the script: a presented word is decoded and executed in
the same step (R90); reads have no side effect (R55); polls and the guarded read follow R81. DESIGN CHOICE: the spec does
not say which STATUS sample guards DECODE's read of DEC_RESULT, nor whether test and read are one action (R8, R81); here
`readResultIfDone` tests a fresh STATUS and reads in the same step, so that no reset falls between the two (log 19). -/
def hostAct (i : HostItem) (s : State) : Outcome :=
  match i with
  | .present w => exec (decode w) s
  | .readStatus => .next s
  | .readResult => hostReadResult s
  | .readResultIfDone => if s.decDone then hostReadResult s else .next s
  | .waitEnc => hostPoll s.encEnded .waitEnc s
  | .waitDec => hostPoll s.decEnded .waitDec s

/-- Another user writes `bs` to the sink's stream object: not admitted while the encoder is in EMITTING (R62, R207). -/
def otherSinkUse (bs : List Byte) (s : State) : Outcome :=
  if s.enc.state = .emitting then .refused .streamInUse else .next (s.setSinkLog (s.sinkLog ++ bs))

/-- Another user leaves the source's stream object holding `rest`: not admitted while the decoder is in ACCUMULATING
(R62, R207). -/
def otherSourceUse (rest : List Byte) (s : State) : Outcome :=
  if s.dec.state = .accumulating then .refused .streamInUse else .next (s.setSrcRest rest)

/-- What one turn does, in the state after the turn was taken from the schedule (R8). -/
def runTurn (t : Turn) (s : State) : Outcome :=
  match t with
  | .host => hostAct (nextItem s).1 (nextItem s).2
  | .sink a => encEmit a s
  | .source m => decRead m s
  | .reset => .next s.resetBlock
  | .otherSink bs => otherSinkUse bs s
  | .otherSource rest => otherSourceUse rest s

/-- One step: a configuration in which one object is both sink and source is refused (R62, U1; log 17); otherwise the next turn
is taken and run. -/
def advance (s : State) : Outcome :=
  if s.sinkObj = s.srcObj then .refused .sharedStream else runTurn (nextTurn s).1 (nextTurn s).2

/-- Puts a command word at the head of the host's script and the host's turn at the head of the schedule, so that the
very next step takes that word. A numeral that is no 67-bit word is placed nowhere (log 9). -/
def placeCommand (s : State) (w : Nat) : State :=
  if wordFits w then
    (s.setScript (.present (BitVec.ofNat 67 w) :: s.script)).setSchedule (.host :: s.schedule)
  else s

end Sys2Proof.Machine
end

