-- ==== Sys2Proof/Machine/Step.lean ====
section
/-! DEFINITION. The step of the machine, and the placing of one command word where the next step takes it. -/

namespace Sys2Proof.Machine

/-- One step of the machine (R8). -/
def step (s : State) : Host.Outcome State Fault Refusal := advance s

/-- `s` with the command word of numeral `w` as the one the next step takes (log 9). The block fetches nothing (R29,
R65): a program is a host script. -/
def State.withFetchWord (s : State) (_nbits w : Nat) : State := placeCommand s w

end Sys2Proof.Machine
end

