-- ==== Sys2Proof/Machine/Assembler.lean ====
section
/-! DEFINITION. The host-side assembly language (R80) and the pseudo-instructions with their expansions (R81): from the
characters of a line to the host's actions. -/

namespace Sys2Proof.Machine

/-- One line of a command script (R80, R81). -/
inductive Asm where
  | nop
  | encStart (imm : Int)
  | encAck
  | decStart
  | decAck
  | cmd (op : Nat) (imm : Int)
  | waitEnc
  | waitDec
  | encode (imm : Int)
  | decode
  deriving DecidableEq, Repr

/-- The words of a `.cmd <op3>, <imm>` line (R80). -/
def assembleCmd (op : Nat) (imm : Int) : Option HostItem :=
  if opFits op && immFits imm then some (.present (cmdWord (BitVec.ofNat 3 op) (u64Of imm))) else none

/-- The word of an `ENC.START <imm>` line, refused where the immediate is not "representable in 64 bits" (R80). -/
def assembleStart (imm : Int) : Option HostItem :=
  if immFits imm then some (.present (encode (.encStart (u64Of imm)))) else none

/-- The host's actions for one line (R80, R81); `none` where the assembler refuses it. -/
def assemble : Asm → Option (List HostItem)
  | .nop => some [.present (encode .nop)]
  | .encStart imm => (assembleStart imm).map fun w => [w]
  | .encAck => some [.present (encode .encAck)]
  | .decStart => some [.present (encode .decStart)]
  | .decAck => some [.present (encode .decAck)]
  | .cmd op imm => (assembleCmd op imm).map fun w => [w]
  | .waitEnc => some [.waitEnc]
  | .waitDec => some [.waitDec]
  | .encode imm => (assembleStart imm).map fun w => [w, .waitEnc, .present (encode .encAck)]
  | .decode => some [.present (encode .decStart), .waitDec, .readResultIfDone, .present (encode .decAck)]

/-- The host's actions for a whole script: those of its lines, in order (R80, R81). DESIGN CHOICE: R80 refuses an immediate
outside its range and does not say what becomes of the other lines; here one refused line refuses the whole script
(log 13). -/
def assembleAll : List Asm → Option (List HostItem)
  | [] => some []
  | a :: as =>
    match assemble a, assembleAll as with
    | some x, some xs => some (x ++ xs)
    | _, _ => none

/-! ## From characters to a line -/

/-- The line without its comment: `;` starts one (R80). -/
def stripComment : List Char → List Char
  | [] => []
  | c :: cs => if c = ';' then [] else c :: stripComment cs

/-- Puts a finished word, if any, before the words that follow. -/
def flushWord (word : List Char) (rest : List (List Char)) : List (List Char) :=
  if word = [] then rest else word.reverse :: rest

/-- Splits a line at blanks; a comma is a word of its own. `word` holds the letters of the word being read, last first
(log 13). -/
def wordsOf (word : List Char) : List Char → List (List Char)
  | [] => flushWord word []
  | c :: cs =>
    if c = ' ' ∨ c = '\t' then flushWord word (wordsOf [] cs)
    else if c = ',' then flushWord word ([','] :: wordsOf [] cs)
    else wordsOf (c :: word) cs

/-- The value of one digit, letters in either case. -/
def digitValue (c : Char) : Option Nat :=
  if '0' ≤ c ∧ c ≤ '9' then some (c.toNat - 48)
  else if 'a' ≤ c ∧ c ≤ 'f' then some (c.toNat - 87)
  else if 'A' ≤ c ∧ c ≤ 'F' then some (c.toNat - 55)
  else none

/-- The number the digits write in a base, after the digits already read. -/
def digitsFrom (base acc : Nat) : List Char → Option Nat
  | [] => some acc
  | c :: cs =>
    match digitValue c with
    | some d => if d < base then digitsFrom base (base * acc + d) cs else none
    | none => none

/-- A numeral of at least one digit in a base. -/
def numeral (base : Nat) (cs : List Char) : Option Nat := if cs = [] then none else digitsFrom base 0 cs

/-- An unsigned number: `0x` hex, `0b` binary (as program P6 writes an op code) or decimal (R80; log 13). -/
def parseNat : List Char → Option Nat
  | '0' :: 'x' :: cs => numeral 16 cs
  | '0' :: 'b' :: cs => numeral 2 cs
  | cs => numeral 10 cs

/-- An immediate: "a decimal or `0x` hex integer. It may be negative" (R80). -/
def parseImm : List Char → Option Int
  | '-' :: '0' :: 'x' :: cs => (numeral 16 cs).map fun n => -(n : Int)
  | '-' :: cs => (numeral 10 cs).map fun n => -(n : Int)
  | '0' :: 'x' :: cs => (numeral 16 cs).map fun n => (n : Int)
  | cs => (numeral 10 cs).map fun n => (n : Int)

/-- A line from its words: a mnemonic and its operands (R80, R81). -/
def asmOfWords (ws : List (List Char)) : Option Asm :=
  match ws with
  | [m] =>
    if m = "NOP".toList then some .nop
    else if m = "ENC.ACK".toList then some .encAck
    else if m = "DEC.START".toList then some .decStart
    else if m = "DEC.ACK".toList then some .decAck
    else if m = "WAIT.ENC".toList then some .waitEnc
    else if m = "WAIT.DEC".toList then some .waitDec
    else if m = "DECODE".toList then some .decode
    else none
  | [m, x] =>
    if m = "ENC.START".toList then (parseImm x).map .encStart
    else if m = "ENCODE".toList then (parseImm x).map .encode
    else none
  | [m, op, comma, x] =>
    if m = ".cmd".toList ∧ comma = [','] then
      match parseNat op, parseImm x with
      | some o, some i => some (.cmd o i)
      | _, _ => none
    else none
  | _ => none

/-- The lines of a script: an empty or comment line is none, any other is one command (R80). -/
def parseLine (line : List Char) : Option (List Asm) :=
  match wordsOf [] (stripComment line) with
  | [] => some []
  | ws => (asmOfWords ws).map fun a => [a]

end Sys2Proof.Machine
end

