-- ==== Sys2Proof/Machine/Codec.lean ====
section
/-! DEFINITION. The two functions a whole call computes, in the spec's closed form and independent of the engines:
`Enc` with its length law (R112, R113, R116) and `Dec` (R147). -/

namespace Sys2Proof.Machine

/-- `bitlen(v)`: the index of v's highest set bit plus one, 0 for 0 (R13). -/
def bitlen (v : Value) : Nat := if v = 0 then 0 else Nat.log2 v.toNat + 1

/-- `L(v) = max(1, ceil(bitlen(v) / 7))` (R112). -/
def encLength (v : Value) : Nat := max 1 ((bitlen v + 6) / 7)

/-- Byte `i` of the encoding of `v` (R113). -/
def encByteAt (v : Value) (i : Nat) : Byte :=
  ((v >>> (7 * i)) &&& 0x7F#64).setWidth 8 ||| (if i < encLength v - 1 then 0x80#8 else 0x00#8)

/-- `Enc(v)` (R116). -/
def encBytes (v : Value) : List Byte := (List.range (encLength v)).map (encByteAt v)

/-- The result of `Dec` (R147). -/
inductive DecResult where
  | ok (value : Value) (consumed : Nat)
  | overflow (consumed : Nat)
  | stream (consumed : Nat)
  deriving DecidableEq, Repr

/-- The loop of `Dec`, with the accumulator, the shift counter and the bytes consumed so far (R147). -/
def decLoop (acc : Value) (sh consumed : Nat) : List Byte → DecResult
  | [] => .stream consumed
  | b :: rest =>
    if sh ≥ 64 then .overflow (consumed + 1)
    else if b.getLsbD 7 then decLoop (acc ||| ((b &&& 0x7F#8).setWidth 64 <<< sh)) (sh + 7) (consumed + 1) rest
    else .ok (acc ||| ((b &&& 0x7F#8).setWidth 64 <<< sh)) (consumed + 1)

/-- `Dec(s)`: the source answers with the bytes of `s`, then FAIL forever (R147). -/
def decBytes (s : List Byte) : DecResult := decLoop 0 0 0 s

end Sys2Proof.Machine
end

