-- ==== Sys2Proof/Machine/System.lean ====
section
/-! DEFINITION. Several block instances in one system (R187): each with its own state and its own two streams, sharing
nothing; two instances bound to one stream object are refused (R62). -/

namespace Sys2Proof.Machine

/-- Every stream object bound in the system, one entry per binding (R51, R187). -/
def boundObjects (y : List State) : List Nat := y.flatMap fun s => [s.sinkObj, s.srcObj]

/-- One step of instance `k`; no other instance moves (R8, R187). A number that names no instance moves nothing (log 14).
DESIGN CHOICE: where the instance's own step is a fault or a refusal, so is the step of the whole system, and no instance
goes on from it; the spec does not say what the others do then (log 14).
DESIGN CHOICE: the free moves of two instances are not kept apart. Each reads the one `Config.freeTurn` and
`Config.freeItem` at its own `draws`, so two with equal counts and empty lists make equal moves (log 21). -/
def systemStep (k : Nat) (y : List State) : Host.Outcome (List State) Fault Refusal :=
  if (boundObjects y).Nodup then
    match y[k]? with
    | none => .next y
    | some s =>
      match step s with
      | .next t => .next (y.set k t)
      | .fault f => .fault f
      | .refused r => .refused r
  else .refused .sharedStream

end Sys2Proof.Machine
end

