-- ==== Sys2Proof/Safety.lean ====
section
/-! DEFINITION. What counts as a run the spec's model admits (R92, R175, R203), the invariants of the block (R35, R36,
R79), and the words the statements use for what a step leaves alone. -/

namespace Sys2Proof.Machine

/-- The spec's model fault a run has raised so far, read off the model's marks (R92, R12; logs 1 and 2). DESIGN CHOICE: the
spec gives no precedence where a run has raised several; CmdIllegal comes first, then `enc_rem`, then `dec_acc` (log 22). -/
def State.specFault (s : State) : Option Fault :=
  if s.faulted then some .cmdIllegal
  else if s.encRemFaulted then some .encRemNotHeld
  else if s.decAccFaulted then some .decAccNotHeld
  else none

/-- The spec's model treatment of an outcome of the hardware: a run that has raised a model fault is at that fault, and it
stays so (R12, R92, R97, R203; logs 1 and 2). -/
def specOutcome (o : Outcome) : Outcome :=
  match o with
  | .next t =>
    match t.specFault with
    | some f => .fault f
    | none => .next t
  | .fault f => .fault f
  | .refused r => .refused r

/-- The step with the spec's model treatment: a run that has faulted stays at its fault (R203). DESIGN CHOICE: it does so
where the hardware's step would meet another fault or a refusal too; the spec gives no precedence there (log 22). -/
def specStep (s : State) : Outcome :=
  match s.specFault with
  | some f => .fault f
  | none => specOutcome (step s)

/-- A state that a run admitted by the spec's model may be in: no model fault so far (R175, R203). -/
abbrev State.Safe (s : State) : Prop := s.specFault = none

/-- The encoder invariants (R35), with what ENC.EMIT needs: in EMITTING the remaining value is held (R12, R20). -/
abbrev State.EncInv (s : State) : Prop :=
  s.enc.count.toNat ≤ 10 ∧
  (s.enc.state = .emitting →
    s.enc.count.toNat ≤ 9 ∧ s.enc.rem.held = true ∧ s.enc.rem.bits.toNat < 2 ^ (64 - 7 * s.enc.count.toNat)) ∧
  (s.enc.state = .done → 1 ≤ s.enc.count.toNat) ∧
  (s.enc.state = .failed → s.enc.count.toNat ≤ 9)

/-- The decoder invariants (R36, R79): the shift counter is `7k` with `k ≤ 10` in every state, and the accumulator is
held wherever it is read. -/
abbrev State.DecInv (s : State) : Prop :=
  s.dec.shift.toNat % 7 = 0 ∧ s.dec.shift.toNat ≤ 70 ∧
  (s.dec.state = .accumulating →
    s.dec.acc.held = true ∧ s.dec.acc.bits.toNat < 2 ^ min 64 s.dec.shift.toNat) ∧
  (s.dec.state = .done → 7 ≤ s.dec.shift.toNat ∧ s.dec.acc.held = true) ∧
  (s.dec.err = .overflow → s.dec.shift.toNat = 70) ∧
  (s.dec.err = .none ↔ s.dec.state ≠ .failed)

/-- The streams, their binding, the model's record of the host and the schedule, and its marks of log 2 are as they
were: what a command never touches (R92, R94). -/
abbrev State.SameOutside (s t : State) : Prop :=
  t.sinkLog = s.sinkLog ∧ t.srcRest = s.srcRest ∧ t.sinkObj = s.sinkObj ∧ t.srcObj = s.srcObj ∧
  t.script = s.script ∧ t.schedule = s.schedule ∧ t.draws = s.draws ∧
  t.encRemFaulted = s.encRemFaulted ∧ t.decAccFaulted = s.decAccFaulted

/-- What R92 says of a command that is not admissible: the spec's model admits no next state, and its fault is CmdIllegal in
a run that carries no mark of log 2; and where the hardware goes on, it has set the sticky bit and left both engines and
everything outside as they were. -/
abbrev IllegalAt (i : Instr) (s : State) : Prop :=
  (∀ t, specOutcome (exec i s) ≠ .next t) ∧
  (s.encRemFaulted = false → s.decAccFaulted = false → specOutcome (exec i s) = .fault .cmdIllegal) ∧
  ∀ t, exec i s = .next t → t.cmdIllegal = true ∧ t.enc = s.enc ∧ t.dec = s.dec ∧ s.SameOutside t

/-- Runs `f` on the state of an outcome that is a next state. -/
def andThen (o : Outcome) (f : State → Outcome) : Outcome :=
  match o with
  | .next s => f s
  | .fault e => .fault e
  | .refused r => .refused r

/-- ENC.EMIT once for each of a list of the sink's answers. -/
def emitAll : List SinkAnswer → State → Outcome
  | [], s => .next s
  | a :: as, s => andThen (encEmit a s) (emitAll as)

/-- DEC.READ once for each of a list of the source's moves. -/
def readAll : List SourceMove → State → Outcome
  | [], s => .next s
  | m :: ms, s => andThen (decRead m s) (readAll ms)

/-- The turns of a list, one after the other. -/
def runTurns : List Turn → State → Outcome
  | [], s => .next s
  | u :: us, s => andThen (runTurn u s) (runTurns us)

end Sys2Proof.Machine
end

