-- ==== Sys2Proof/Certificates/Slice0/Obligations.lean ====
section
/-! DEFINITION. The statements for the provers, from the numbered rules of spec/. A docstring names the rule a statement
formalises, and the log entry where it rests on a choice of the model. -/

open Sys2Proof Sys2Proof.Machine

/-! ## Encodings -/

/-- Command words as the programs of 95_test_vectors.md write them (R73, R74, R77). -/
def Obligations.WrittenOutCommandWordsDecode : Prop :=
  decode 0x0FFFFFFFFFFFFFFFF#67 = .nop ∧
  decode 0x1000000000000012C#67 = .encStart 300 ∧
  decode 0x1FFFFFFFFFFFFFFFF#67 = .encStart 0xFFFFFFFFFFFFFFFF#64 ∧
  decode 0x20000000000000000#67 = .encAck ∧
  decode 0x30000000000000000#67 = .reserved011 ∧
  decode 0x40000000000000000#67 = .reserved100 ∧
  decode 0x50000000000000000#67 = .decStart ∧
  decode 0x60000000000000000#67 = .decAck ∧
  decode 0x70000000000000000#67 = .reserved111

/-- R77, R74: the match and mask over the 67-bit word select the command; ENC.START takes the low 64 bits. -/
def Obligations.MatchMaskSelectsTheCommand : Prop :=
  ∀ w : CmdWord,
    (w &&& 0x70000000000000000#67 = 0x00000000000000000#67 → decode w = .nop) ∧
    (w &&& 0x70000000000000000#67 = 0x10000000000000000#67 → decode w = .encStart (w.setWidth 64)) ∧
    (w &&& 0x70000000000000000#67 = 0x20000000000000000#67 → decode w = .encAck) ∧
    (w &&& 0x70000000000000000#67 = 0x30000000000000000#67 → decode w = .reserved011) ∧
    (w &&& 0x70000000000000000#67 = 0x40000000000000000#67 → decode w = .reserved100) ∧
    (w &&& 0x70000000000000000#67 = 0x50000000000000000#67 → decode w = .decStart) ∧
    (w &&& 0x70000000000000000#67 = 0x60000000000000000#67 → decode w = .decAck) ∧
    (w &&& 0x70000000000000000#67 = 0x70000000000000000#67 → decode w = .reserved111)

/-- R75: ENC.START takes CMD[63:0] whole; for every other op code no value of those bits changes any effect. -/
def Obligations.IgnoredValueBitsChangeNothing : Prop :=
  (∀ v : Value, decode (0b001#3 ++ v : CmdWord) = .encStart v) ∧
  ∀ (op : BitVec 3) (v v' : Value) (s : State), op ≠ 0b001#3 →
    exec (decode (op ++ v : CmdWord)) s = exec (decode (op ++ v' : CmdWord)) s

/-- R73, R74, R75, R76: every well-formed command comes back from its word, and every word comes back from its command up
to the bits R75 says are ignored (the encoder writes 0 there: log 11). -/
def Obligations.DecodeAndEncodeAgree : Prop :=
  (∀ i : Instr, i.wf = true → decode (encode i) = i) ∧
  ∀ w : CmdWord,
    encode (decode w) = if w.extractLsb' 64 3 = 0b001#3 then w else w &&& 0x70000000000000000#67

/-! ## Steps -/

/-- R8, R90: a step in which the host presents a word runs the command that word decodes to, in the state after the turn
and the word were taken. -/
def Obligations.StepRunsThePresentedCommand : Prop :=
  ∀ (s : State) (w : CmdWord) (turns : List Turn) (items : List HostItem),
    s.sinkObj ≠ s.srcObj → s.schedule = .host :: turns → s.script = .present w :: items →
    step s = exec (decode w) { s with schedule := turns, script := items }

/-- The model's choices (logs 9 and 12): a placed command word is the one the very next step runs, and decodeTableWord
reads one numeral below 2^67 as that word whatever bit count it is told. -/
def Obligations.PlacedCommandWordRunsNext : Prop :=
  ∀ (s : State) (nbits w : Nat), s.sinkObj ≠ s.srcObj → w < 2 ^ 67 →
    decodeTableWord nbits w = some (decode (BitVec.ofNat 67 w)) ∧
    step (s.withFetchWord nbits w) = exec (decode (BitVec.ofNat 67 w)) s

/-- R8: a step takes the first turn placed, or a free one where none is (log 3), and runs it. -/
def Obligations.StepRunsTheTurn : Prop :=
  ∀ s : State, s.sinkObj ≠ s.srcObj →
    (∀ u turns, s.schedule = u :: turns → step s = runTurn u { s with schedule := turns }) ∧
    (s.schedule = [] → step s = runTurn (Config.freeTurn s.draws) { s with draws := s.draws + 1 }) ∧
    (∀ a turns, s.schedule = .sink a :: turns → step s = encEmit a { s with schedule := turns }) ∧
    (∀ m turns, s.schedule = .source m :: turns → step s = decRead m { s with schedule := turns })

/-! ## Commands -/

/-- R93: NOP, whatever its ignored bits, changes nothing and raises nothing. -/
def Obligations.NopChangesNothing : Prop :=
  ∀ s : State, exec .nop s = .next s ∧ ∀ v : Value, decode (0b000#3 ++ v : CmdWord) = .nop

/-- R106: ENC.START from IDLE begins the call with the whole value and writes no byte; elsewhere R92. -/
def Obligations.EncStartBeginsACall : Prop :=
  ∀ (s : State) (v : Value),
    decode (0b001#3 ++ v : CmdWord) = .encStart v ∧
    (s.enc.state = .idle →
      exec (.encStart v) s = .next { s with enc := { state := .emitting, rem := .of v, count := 0 } }) ∧
    (s.enc.state ≠ .idle → IllegalAt (.encStart v) s)

/-- R108: ENC.ACK from DONE or FAILED goes to IDLE with count and remaining value held; elsewhere R92. -/
def Obligations.EncAckEndsACall : Prop :=
  ∀ s : State,
    (∀ v : Value, decode (0b010#3 ++ v : CmdWord) = .encAck) ∧
    (s.enc.state = .done ∨ s.enc.state = .failed →
      exec .encAck s = .next { s with enc := { state := .idle, rem := s.enc.rem, count := s.enc.count } }) ∧
    (s.enc.state = .idle ∨ s.enc.state = .emitting → IllegalAt .encAck s)

/-- R136: DEC.START from IDLE clears accumulator, shift counter and error and reads no byte; elsewhere R92. -/
def Obligations.DecStartBeginsACall : Prop :=
  ∀ s : State,
    (∀ v : Value, decode (0b101#3 ++ v : CmdWord) = .decStart) ∧
    (s.dec.state = .idle →
      exec .decStart s =
        .next { s with dec := { state := .accumulating, acc := .of 0, shift := 0, err := .none } }) ∧
    (s.dec.state ≠ .idle → IllegalAt .decStart s)

/-- R138: DEC.ACK from DONE or FAILED goes to IDLE and clears the error; shift and accumulator are held, and the result is
no longer readable; elsewhere R92. -/
def Obligations.DecAckEndsACall : Prop :=
  ∀ s : State,
    (∀ v : Value, decode (0b110#3 ++ v : CmdWord) = .decAck) ∧
    (s.dec.state = .done ∨ s.dec.state = .failed →
      exec .decAck s =
        .next { s with dec := { state := .idle, acc := s.dec.acc, shift := s.dec.shift, err := .none } } ∧
      ∀ t, exec .decAck s = .next t → t.decResultValid = false ∧ t.readDecResult = .error .resultNotValid) ∧
    (s.dec.state = .idle ∨ s.dec.state = .accumulating → IllegalAt .decAck s)

/-- R97: the three reserved codes decode to reserved commands, never to a guessed one, and are illegal in every state. -/
def Obligations.ReservedCodesAreNeverAdmissible : Prop :=
  ∀ (s : State) (v : Value),
    decode (0b011#3 ++ v : CmdWord) = .reserved011 ∧ IllegalAt .reserved011 s ∧
    decode (0b100#3 ++ v : CmdWord) = .reserved100 ∧ IllegalAt .reserved100 s ∧
    decode (0b111#3 ++ v : CmdWord) = .reserved111 ∧ IllegalAt .reserved111 s

/-- R92: every command that is not admissible is illegal, and the sticky bit it leaves stays until reset. (Where the
hardware goes on after it is the model's choice, log 1; this statement holds either way.) -/
def Obligations.InadmissibleCommandsAreIgnored : Prop :=
  (∀ (i : Instr) (s : State), admissible i s = false → IllegalAt i s) ∧
  ∀ s t : State, s.cmdIllegal = true → step s = .next t → (nextTurn s).1 ≠ .reset → t.cmdIllegal = true

/-- The model's form of the spec's fault CmdIllegal (log 1): from a run with no model fault behind it, a step raises the
mark, and the spec's model faults there (R92, R175), exactly when the turn is the host's, it presents a word, and the
command of that word is not admissible by the table of R91, written out here; and within the invariants, where no register
is read that holds no value (log 2), every other step that goes on is admitted. -/
def Obligations.ModelFaultExactlyAtInadmissibleCommands : Prop :=
  ∀ s t : State, s.Safe → step s = .next t →
    let inadmissible : Prop :=
      (nextTurn s).1 = .host ∧ ∃ w, (nextItem (nextTurn s).2).1 = .present w ∧
        match decode w with
        | .nop => False
        | .encStart _ => s.enc.state ≠ .idle
        | .encAck => s.enc.state = .idle ∨ s.enc.state = .emitting
        | .decStart => s.dec.state ≠ .idle
        | .decAck => s.dec.state = .idle ∨ s.dec.state = .accumulating
        | .reserved011 => True
        | .reserved100 => True
        | .reserved111 => True
    (t.faulted = true ↔ inadmissible) ∧
    (specStep s = .fault .cmdIllegal ↔ inadmissible) ∧
    (s.EncInv → s.DecInv → (specStep s = .next t ↔ ¬ inadmissible))

/-- The model's choice (log 1): where the spec's model faults CmdIllegal, the machine goes on as the hardware of R92 does,
with the sticky bit and the model's own mark set and nothing else changed. -/
def Obligations.IllegalCommandsGoOnWithTheStickyBit : Prop :=
  ∀ s : State,
    exec .reserved011 s = .next { s with cmdIllegal := true, faulted := true } ∧
    exec .reserved100 s = .next { s with cmdIllegal := true, faulted := true } ∧
    exec .reserved111 s = .next { s with cmdIllegal := true, faulted := true } ∧
    (s.enc.state ≠ .idle → ∀ v, exec (.encStart v) s = .next { s with cmdIllegal := true, faulted := true }) ∧
    (s.enc.state = .idle ∨ s.enc.state = .emitting →
      exec .encAck s = .next { s with cmdIllegal := true, faulted := true }) ∧
    (s.dec.state ≠ .idle → exec .decStart s = .next { s with cmdIllegal := true, faulted := true }) ∧
    (s.dec.state = .idle ∨ s.dec.state = .accumulating →
      exec .decAck s = .next { s with cmdIllegal := true, faulted := true })

/-- R91: the admissibility table, read off the sticky bit, and its consequence that no command touches a busy engine. -/
def Obligations.AdmissibilityTable : Prop :=
  ∀ (i : Instr) (s t : State), exec i s = .next t →
    (s.cmdIllegal = false →
      (t.cmdIllegal = false ↔
        match i with
        | .nop => True
        | .encStart _ => s.enc.state = .idle
        | .encAck => s.enc.state = .done ∨ s.enc.state = .failed
        | .decStart => s.dec.state = .idle
        | .decAck => s.dec.state = .done ∨ s.dec.state = .failed
        | .reserved011 => False
        | .reserved100 => False
        | .reserved111 => False)) ∧
    (s.enc.state = .emitting → t.enc = s.enc) ∧
    (s.dec.state = .accumulating → t.dec = s.dec)

/-- R94: a command addressed to one engine (bit 2 of its op code) neither reads nor writes the other engine's state. -/
def Obligations.CommandsAddressOneEngine : Prop :=
  ∀ (i : Instr) (s s' t t' : State), exec i s = .next t → exec i s' = .next t' →
    ((opOf i).getLsbD 2 = false → s'.enc = s.enc → s'.cmdIllegal = s.cmdIllegal →
      t.dec = s.dec ∧ t'.enc = t.enc ∧ t'.cmdIllegal = t.cmdIllegal) ∧
    ((opOf i).getLsbD 2 = true → s'.dec = s.dec → s'.cmdIllegal = s.cmdIllegal →
      t.enc = s.enc ∧ t'.dec = t.dec ∧ t'.cmdIllegal = t.cmdIllegal)

/-- The frame of every command on every path (R90, R94, R108, R138): streams, binding, script, schedule and draws stay; an
encoder command leaves the decoder, a decoder command the encoder, NOP and the reserved codes both; an ACK holds the
datapath registers; the sticky bit is never cleared; and no mark of the model (logs 1 and 2) is cleared either. -/
def Obligations.CommandFrame : Prop :=
  ∀ (i : Instr) (s t : State), exec i s = .next t →
    s.SameOutside t ∧
    (s.cmdIllegal = true → t.cmdIllegal = true) ∧ (s.faulted = true → t.faulted = true) ∧
    match i with
    | .nop => t = s
    | .encStart _ => t.dec = s.dec
    | .encAck => t.dec = s.dec ∧ t.enc.rem = s.enc.rem ∧ t.enc.count = s.enc.count
    | .decStart => t.enc = s.enc
    | .decAck => t.enc = s.enc ∧ t.dec.acc = s.dec.acc ∧ t.dec.shift = s.dec.shift
    | .reserved011 => t.enc = s.enc ∧ t.dec = s.dec
    | .reserved100 => t.enc = s.enc ∧ t.dec = s.dec
    | .reserved111 => t.enc = s.enc ∧ t.dec = s.dec

/-! ## The encoder -/

/-- R107: one ENC.EMIT step, accepted, rejected, or not enabled. (Reading an `enc_rem` that holds no value is
ReadingAnUnheldRegister.) -/
def Obligations.EmitWritesOneByte : Prop :=
  ∀ (s : State) (r : Value),
    (s.enc.state = .emitting → s.enc.rem = .of r →
      encEmit .accept s = .next { s with
        enc := { state := if r >>> 7 = 0 then .done else .emitting, rem := .of (r >>> 7), count := s.enc.count + 1 }
        sinkLog := s.sinkLog ++ [(if r >>> 7 = 0 then 0#1 else 1#1) ++ r.extractLsb' 0 7] } ∧
      encEmit .reject s = .next { s with
        enc := { state := .failed, rem := s.enc.rem, count := s.enc.count } }) ∧
    (s.enc.state ≠ .emitting → ∀ a t, encEmit a s = .next t → t.enc = s.enc ∧ t.sinkLog = s.sinkLog)

/-- R101, R102, R104, R105: the encoder datapath as arithmetic on the unsigned value. -/
def Obligations.EmitDatapathArithmetic : Prop :=
  ∀ r : Value,
    (encGroup r).toNat = r.toNat % 128 ∧
    (remNext r).toNat = r.toNat / 128 ∧
    (isLast r = true ↔ r.toNat / 128 = 0) ∧
    (∀ g : Group, (contMux true g).toNat = g.toNat ∧ (contMux false g).toNat = g.toNat + 128) ∧
    (emitByte r).toNat = r.toNat % 128 + if r.toNat < 128 then 0 else 128

/-- R109: a rejection at byte `k` leaves exactly the first `k` bytes of `Enc(value)` in the sink and `enc_count` at `k`. -/
def Obligations.SinkRejectionKeepsTheBytesAccepted : Prop :=
  ∀ (s : State) (v : Value) (k : Nat), s.enc.state = .idle → k < encLength v →
    ∃ rem, andThen (exec (.encStart v) s) (emitAll (List.replicate k .accept ++ [.reject])) =
      .next { s with
        enc := { state := .failed, rem := rem, count := BitVec.ofNat 4 k }
        sinkLog := s.sinkLog ++ (encBytes v).take k }

/-- R111, R116: with every offer accepted, an encode call is still running after fewer than `L(v)` EMIT steps and ends in
DONE after exactly `L(v)`, having appended exactly `Enc(v)`. -/
def Obligations.EncodeCallAppendsEnc : Prop :=
  ∀ (s : State) (v : Value), s.enc.state = .idle →
    (∀ k, k < encLength v →
      ∃ rem, andThen (exec (.encStart v) s) (emitAll (List.replicate k .accept)) =
        .next { s with
          enc := { state := .emitting, rem := .of rem, count := BitVec.ofNat 4 k }
          sinkLog := s.sinkLog ++ (encBytes v).take k }) ∧
    andThen (exec (.encStart v) s) (emitAll (List.replicate (encLength v) .accept)) =
      .next { s with
        enc := { state := .done, rem := .of 0, count := BitVec.ofNat 4 (encLength v) }
        sinkLog := s.sinkLog ++ encBytes v }

/-- R61, R116: the same end under every interleaving of the encoder's steps with the decoder's. (That turns which come
after a call has ended change nothing is the model's choice, log 4.) -/
def Obligations.EncodeCallUnderEveryInterleaving : Prop :=
  ∀ (s t : State) (v : Value) (us : List Turn),
    s.enc = { state := .emitting, rem := .of v, count := 0 } →
    (∀ u ∈ us, u = .sink .accept ∨ ∃ m, u = .source m) → encLength v ≤ us.count (.sink .accept) →
    runTurns us s = .next t →
    t.enc = { state := .done, rem := .of 0, count := BitVec.ofNat 4 (encLength v) } ∧
    t.sinkLog = s.sinkLog ++ encBytes v

/-- R112: the length of an encoding, one row of the table per length. -/
def Obligations.EncodedLengthTable : Prop :=
  ∀ v : Value,
    1 ≤ encLength v ∧ encLength v ≤ 10 ∧ encLength v = max 1 ((bitlen v + 6) / 7) ∧
    (∀ k, 1 ≤ k → k ≤ 9 → (encLength v ≤ k ↔ v.toNat < 2 ^ (7 * k))) ∧
    (v.getLsbD 63 = true ↔ encLength v = 10)

/-- R114: every byte of an encoding except the last has its top bit set, the last has it clear. -/
def Obligations.ContinuationBitOfEveryByte : Prop :=
  ∀ v : Value, (encBytes v).length = encLength v ∧
    ∀ (i : Nat) (b : Byte), (encBytes v)[i]? = some b → (b.getLsbD 7 = true ↔ i + 1 < encLength v)

/-- R115: the tenth byte, where there is one, is exactly 0x01; and the value with all bits set encodes to nine bytes 0xFF
and that byte. -/
def Obligations.TenthByteIsOne : Prop :=
  (∀ v : Value, encLength v = 10 → 2 ^ 63 ≤ v.toNat ∧ (encBytes v)[9]? = some 0x01#8) ∧
  encBytes 0xFFFFFFFFFFFFFFFF#64 = List.replicate 9 0xFF#8 ++ [0x01#8]

/-! ## The decoder -/

/-- R137: one DEC.READ step: source failure, overflow, a byte combined, or not enabled. (Reading a `dec_acc` that holds no
value is ReadingAnUnheldRegister.) -/
def Obligations.ReadProcessesOneByte : Prop :=
  ∀ (s : State) (b : Byte) (rest : List Byte) (acc : Value),
    (s.dec.state = .accumulating →
      decRead .fail s = .next { s with
        dec := { state := .failed, acc := s.dec.acc, shift := s.dec.shift, err := .stream } } ∧
      (s.srcRest = [] → decRead .serve s = .next { s with
        dec := { state := .failed, acc := s.dec.acc, shift := s.dec.shift, err := .stream } }) ∧
      (s.srcRest = b :: rest → 64 ≤ s.dec.shift.toNat → decRead .serve s = .next { s with
        dec := { state := .failed, acc := s.dec.acc, shift := s.dec.shift, err := .overflow }
        srcRest := rest }) ∧
      (s.srcRest = b :: rest → s.dec.shift.toNat < 64 → s.dec.acc = .of acc → decRead .serve s = .next { s with
        dec := {
          state := if b.getLsbD 7 then .accumulating else .done
          acc := .of (acc ||| ((b.extractLsb' 0 7).setWidth 64 <<< s.dec.shift.toNat))
          shift := s.dec.shift + 7
          err := s.dec.err }
        srcRest := rest })) ∧
    (s.dec.state ≠ .accumulating → ∀ m t, decRead m s = .next t → t.dec = s.dec ∧ t.srcRest = s.srcRest)

/-- R140, R177: the read comes first, so a byte that overflows is consumed, and a failing source is STREAM even at shift
70. -/
def Obligations.ReadComesBeforeTheOverflowCheck : Prop :=
  ∀ (s t : State) (m : SourceMove), s.dec.state = .accumulating → 64 ≤ s.dec.shift.toNat → decRead m s = .next t →
    t.dec.state = .failed ∧
    (t.dec.err = .overflow → m = .serve ∧ ∃ b, s.srcRest = b :: t.srcRest) ∧
    (m = .fail ∨ s.srcRest = [] → t.dec.err = .stream ∧ t.srcRest = s.srcRest) ∧
    (m = .serve → s.srcRest ≠ [] → t.dec.err = .overflow)

/-- R143: at shift 63 only bit 0 of the byte counts, at value bit 63; its bits [6:1] are lost without error;
and the rule's three examples. -/
def Obligations.TenthByteTruncation : Prop :=
  (∀ (s : State) (b : Byte) (rest : List Byte) (acc : Value),
    s.dec.state = .accumulating → s.dec.shift = 63 → s.dec.acc = .of acc → s.srcRest = b :: rest →
    decRead .serve s = .next { s with
      dec := {
        state := if b.getLsbD 7 then .accumulating else .done
        acc := .of (if b.getLsbD 0 then acc ||| 0x8000000000000000#64 else acc)
        shift := 70
        err := s.dec.err }
      srcRest := rest }) ∧
  decBytes (List.replicate 9 0xFF#8 ++ [0x7F#8]) = .ok 0xFFFFFFFFFFFFFFFF#64 10 ∧
  decBytes (List.replicate 9 0xFF#8 ++ [0x02#8]) = .ok 0x7FFFFFFFFFFFFFFF#64 10 ∧
  decBytes (List.replicate 9 0x80#8 ++ [0x7E#8]) = .ok 0#64 10

/-- R133: below shift 58 the combiner's OR is an addition, and every bit of the group lands. -/
def Obligations.CombinerAddsDisjointGroups : Prop :=
  ∀ (acc : Value) (g : Group) (sh : BitVec 7), sh.toNat ≤ 57 → acc.toNat < 2 ^ sh.toNat →
    (accNext acc g sh).toNat = acc.toNat + g.toNat * 2 ^ sh.toNat

/-- R134: the overflow comparator is exactly bit 6 of the shift counter. -/
def Obligations.OverflowComparatorIsBitSix : Prop :=
  ∀ sh : BitVec 7, (shiftOverflow sh = true ↔ 64 ≤ sh.toNat) ∧ shiftOverflow sh = sh.getLsbD 6

/-- R147: a decode call, run to its end on a source that holds `s.srcRest` and then fails, ends as `Dec` says and consumed
exactly the bytes `Dec` says. -/
def Obligations.DecodeCallComputesDec : Prop :=
  ∀ s : State, s.dec.state = .idle →
    (∀ v k, decBytes s.srcRest = .ok v k →
      andThen (exec .decStart s) (readAll (List.replicate k .serve)) = .next { s with
        dec := { state := .done, acc := .of v, shift := BitVec.ofNat 7 (7 * k), err := .none }
        srcRest := s.srcRest.drop k }) ∧
    (∀ k, decBytes s.srcRest = .overflow k →
      ∃ acc, andThen (exec .decStart s) (readAll (List.replicate k .serve)) = .next { s with
        dec := { state := .failed, acc := acc, shift := 70, err := .overflow }
        srcRest := s.srcRest.drop k }) ∧
    (∀ k, decBytes s.srcRest = .stream k →
      ∃ acc, andThen (exec .decStart s) (readAll (List.replicate (k + 1) .serve)) = .next { s with
        dec := { state := .failed, acc := acc, shift := BitVec.ofNat 7 (7 * k), err := .stream }
        srcRest := [] } ∧ k = s.srcRest.length)

/-- R148: the outcomes of a decode in closed form. -/
def Obligations.DecodeOutcomesClosedForm : Prop :=
  ∀ l : List Byte,
    (∀ v k, decBytes l = .ok v k ↔
      1 ≤ k ∧ k ≤ 10 ∧ k ≤ l.length ∧
      (∀ (j : Nat) (b : Byte), j + 1 < k → l[j]? = some b → b.getLsbD 7 = true) ∧
      (∀ b : Byte, l[k - 1]? = some b → b.getLsbD 7 = false) ∧
      v = ((l.take k).zipIdx.map fun (p : Byte × Nat) =>
        ((p.1.extractLsb' 0 7).setWidth 64 : Value) <<< (7 * p.2)).foldl (· ||| ·) 0#64) ∧
    (∀ k, decBytes l = .overflow k ↔
      k = 11 ∧ 11 ≤ l.length ∧ ∀ (j : Nat) (b : Byte), j ≤ 9 → l[j]? = some b → b.getLsbD 7 = true) ∧
    (∀ k, decBytes l = .stream k ↔
      k = l.length ∧ k ≤ 10 ∧ ∀ (j : Nat) (b : Byte), l[j]? = some b → b.getLsbD 7 = true)

/-- R149: whatever follows it on the stream, the encoding of `v` decodes to `v` and consumes `L(v)` bytes. -/
def Obligations.RoundTrip : Prop :=
  ∀ (v : Value) (t : List Byte), decBytes (encBytes v ++ t) = .ok v (encLength v)

/-- R117: no byte sequence that decodes to `v` is shorter than `Enc(v)`, and `k ≤ 9` bytes give a value below `2^(7k)`. -/
def Obligations.MinimalLength : Prop :=
  ∀ (l : List Byte) (v : Value) (k : Nat), decBytes l = .ok v k →
    (encBytes v).length ≤ k ∧ (k ≤ 9 → v.toNat < 2 ^ (7 * k))

/-- R155: which consumed sequences are canonical. -/
def Obligations.CanonicalForm : Prop :=
  ∀ (l : List Byte) (v : Value) (k : Nat), decBytes l = .ok v k →
    (encBytes v = l.take k ↔
      k = 1 ∨ (2 ≤ k ∧ k ≤ 9 ∧ l[k - 1]? ≠ some 0x00#8) ∨ (k = 10 ∧ l[9]? = some 0x01#8))

/-- R154: encoding the value decoded from an encoding gives that encoding back. -/
def Obligations.ReencodingADecodedEncoding : Prop :=
  ∀ (v w : Value) (k : Nat), decBytes (encBytes v) = .ok w k → encBytes w = encBytes v

/-- R144: a successful decode depends on nothing after its terminal byte. -/
def Obligations.NoLookahead : Prop :=
  ∀ (l t : List Byte) (v : Value) (k : Nat), decBytes l = .ok v k → decBytes (l.take k ++ t) = .ok v k

/-! ## Both engines -/

/-- R153, R208, R211, R212: if every request is answered, an encode call has ended after 10 answers and a decode call
after 11, whatever the answers are. (That the answers left over when a call has ended earlier run through and change
nothing is the model's choice, log 4.) -/
def Obligations.CallsEndWithinTheirStepBound : Prop :=
  (∀ (s : State) (as : List SinkAnswer), s.EncInv → s.enc.state = .emitting → as.length = 10 →
    ∃ t, emitAll as s = .next t ∧ (t.enc.state = .done ∨ t.enc.state = .failed)) ∧
  ∀ (s : State) (ms : List SourceMove), s.DecInv → s.dec.state = .accumulating → ms.length = 11 →
    ∃ t, readAll ms s = .next t ∧ (t.dec.state = .done ∨ t.dec.state = .failed)

/-- The frame of the engine steps (R39, R54): an EMIT step writes encoder registers and the sink, a READ step decoder
registers and the source, and neither touches anything else, but for the model's own mark where the register it reads holds
no value (log 2). -/
def Obligations.EngineStepFrame : Prop :=
  (∀ (a : SinkAnswer) (s t : State), encEmit a s = .next t →
    t = { s with enc := t.enc, sinkLog := t.sinkLog, encRemFaulted := t.encRemFaulted } ∧
    (a = .reject → t.sinkLog = s.sinkLog) ∧
    (s.enc.state ≠ .emitting ∨ s.enc.rem.held = true → t.encRemFaulted = s.encRemFaulted)) ∧
  ∀ (m : SourceMove) (s t : State), decRead m s = .next t →
    t = { s with dec := t.dec, srcRest := t.srcRest, decAccFaulted := t.decAccFaulted } ∧
    (m = .fail → t.srcRest = s.srcRest) ∧
    (s.dec.state ≠ .accumulating ∨ s.dec.acc.held = true → t.decAccFaulted = s.decAccFaulted)

/-- R12, V1, D28: reading a register that holds no value is a fault of the spec's model, which stays for the rest of the
run. That the machine itself goes on, with the bits the register has, is the model's choice (log 2), and so is which fault
a run answers that has raised several (log 22). -/
def Obligations.ReadingAnUnheldRegister : Prop :=
  (∀ s : State, s.enc.state = .emitting → s.enc.rem.held = false →
    encEmit .accept s = .next { s with
      enc := {
        state := if s.enc.rem.bits >>> 7 = 0 then .done else .emitting
        rem := .of (s.enc.rem.bits >>> 7)
        count := s.enc.count + 1 }
      sinkLog := s.sinkLog ++
        [(if s.enc.rem.bits >>> 7 = 0 then 0#1 else 1#1) ++ s.enc.rem.bits.extractLsb' 0 7]
      encRemFaulted := true } ∧
    encEmit .reject s = .next { s with
      enc := { state := .failed, rem := s.enc.rem, count := s.enc.count }
      encRemFaulted := true } ∧
    (s.Safe → ∀ a, specOutcome (encEmit a s) = .fault .encRemNotHeld)) ∧
  (∀ (s : State) (b : Byte) (rest : List Byte), s.dec.state = .accumulating → s.dec.acc.held = false →
    s.srcRest = b :: rest → s.dec.shift.toNat < 64 →
    decRead .serve s = .next { s with
      dec := {
        state := if b.getLsbD 7 then .accumulating else .done
        acc := .of (s.dec.acc.bits ||| ((b.extractLsb' 0 7).setWidth 64 <<< s.dec.shift.toNat))
        shift := s.dec.shift + 7
        err := s.dec.err }
      srcRest := rest
      decAccFaulted := true } ∧
    (s.Safe → specOutcome (decRead .serve s) = .fault .decAccNotHeld)) ∧
  (∀ s : State, s.dec.state = .done → s.dec.acc.held = false →
    hostAct .readResult s = .next { s with decAccFaulted := true } ∧
    (s.Safe → specOutcome (hostAct .readResult s) = .fault .decAccNotHeld)) ∧
  (∀ (s t : State), step s = .next t →
    (s.encRemFaulted = true → t.encRemFaulted = true) ∧ (s.decAccFaulted = true → t.decAccFaulted = true)) ∧
  ∀ s : State,
    (s.faulted = true → specStep s = .fault .cmdIllegal) ∧
    (s.faulted = false → s.encRemFaulted = true → specStep s = .fault .encRemNotHeld) ∧
    (s.faulted = false → s.encRemFaulted = false → s.decAccFaulted = true → specStep s = .fault .decAccNotHeld)

/-- R61: there is no order between the engines: an EMIT step and a READ step commute. (A step that is not enabled changes
nothing: the model's choice, log 4.) -/
def Obligations.EngineStepsCommute : Prop :=
  ∀ (a : SinkAnswer) (m : SourceMove) (s t : State),
    andThen (encEmit a s) (decRead m) = .next t ↔ andThen (decRead m s) (encEmit a) = .next t

/-- R202: a busy engine is left only by its stream's answer or by reset; every other step leaves its registers as they
were. -/
def Obligations.OnlyTheStreamOrResetLeavesABusyEngine : Prop :=
  ∀ s t : State, step s = .next t →
    (s.enc.state = .emitting → (∃ a, (nextTurn s).1 = .sink a) ∨ (nextTurn s).1 = .reset ∨ t.enc = s.enc) ∧
    (s.dec.state = .accumulating → (∃ m, (nextTurn s).1 = .source m) ∨ (nextTurn s).1 = .reset ∨ t.dec = s.dec)

/-- R24, R25, R108, R138, R182: DONE and FAILED are left only to IDLE, and only by that engine's ACK or by reset. -/
def Obligations.EndedCallsLeaveOnlyToIdle : Prop :=
  ∀ s t : State, step s = .next t →
    (s.enc.state = .done ∨ s.enc.state = .failed →
      t.enc = s.enc ∨ t.enc.state = .idle ∧
        ((nextTurn s).1 = .reset ∨
          (nextTurn s).1 = .host ∧ ∃ w, (nextItem (nextTurn s).2).1 = .present w ∧ decode w = .encAck)) ∧
    (s.dec.state = .done ∨ s.dec.state = .failed →
      t.dec = s.dec ∨ t.dec.state = .idle ∧
        ((nextTurn s).1 = .reset ∨
          (nextTurn s).1 = .host ∧ ∃ w, (nextItem (nextTurn s).2).1 = .present w ∧ decode w = .decAck))

/-- R51, R54, R55, R60: a step of the block moves at most one byte of a stream, by the accepted EMIT or the READ of the
busy engine bound to it. That no step changes the binding, between calls neither, is the model's choice (log 20): R51
fixes it for every call. A turn of another user is no step of the block: the model's choice (log 7) lets it append any
bytes to the sink's object, or leave any bytes in the source's, while that engine is not busy. -/
def Obligations.BlockStepsMoveAtMostOneStreamByte : Prop :=
  ∀ s t : State, step s = .next t →
    t.sinkObj = s.sinkObj ∧ t.srcObj = s.srcObj ∧
    (t.sinkLog = s.sinkLog ∨
      (s.enc.state = .emitting ∧ (nextTurn s).1 = .sink .accept ∧
        t.sinkLog = s.sinkLog ++ [emitByte s.enc.rem.bits]) ∨
      (s.enc.state ≠ .emitting ∧ ∃ bs, (nextTurn s).1 = .otherSink bs ∧ t.sinkLog = s.sinkLog ++ bs)) ∧
    (t.srcRest = s.srcRest ∨
      (s.dec.state = .accumulating ∧ (nextTurn s).1 = .source .serve ∧ ∃ b, s.srcRest = b :: t.srcRest) ∨
      (s.dec.state ≠ .accumulating ∧ (nextTurn s).1 = .otherSource t.srcRest))

/-! ## Invariants -/

/-- R35, R36 at reset. -/
def Obligations.InvariantsHoldAtReset : Prop := State.reset.EncInv ∧ State.reset.DecInv

/-- R35: every step keeps the encoder invariants, from every state that has them. -/
def Obligations.StepKeepsEncoderInvariant : Prop :=
  ∀ s t : State, s.EncInv → step s = .next t → t.EncInv

/-- R36, R79: every step keeps the decoder invariants, from every state that has them. -/
def Obligations.StepKeepsDecoderInvariant : Prop :=
  ∀ s t : State, s.DecInv → step s = .next t → t.DecInv

/-- In every state the only fault is the host reading DEC_RESULT outside DONE, and the only refusals are one object bound to
both engines (in every step: log 17) and another user's turn on the stream of a busy engine (R32, R62, R206, R207; other
users: log 7); and within the invariants no step reads a register that holds no value (R12). That an illegal command is no
stop of `step` is the model's choice (log 1), and so is that reading a register which holds no value is none (log 2), that
a stream turn which is not enabled goes on (log 4) and that a host read is an action of the script (log 18). That DECODE's
guarded read, the item `readResultIfDone`, never faults is the model's choice too: it tests STATUS and reads in one action,
so no reset falls between the two (log 19). -/
def Obligations.TheOnlyStops : Prop :=
  ∀ s : State,
    (∀ f, step s = .fault f →
      f = .resultNotValid ∧ s.dec.state ≠ .done ∧
        (nextTurn s).1 = .host ∧ (nextItem (nextTurn s).2).1 = .readResult) ∧
    (∀ r, step s = .refused r →
      (r = .sharedStream ∧ s.sinkObj = s.srcObj) ∨
      (r = .streamInUse ∧ s.enc.state = .emitting ∧ ∃ bs, (nextTurn s).1 = .otherSink bs) ∨
      (r = .streamInUse ∧ s.dec.state = .accumulating ∧ ∃ rest, (nextTurn s).1 = .otherSource rest)) ∧
    (s.EncInv → s.DecInv → ∀ t, step s = .next t →
      t.encRemFaulted = s.encRemFaulted ∧ t.decAccFaulted = s.decAccFaulted)

/-! ## Reset, errors and ports -/

/-- R37: the reset value of every piece of the block's state, and of its ports; the two datapath registers hold no value. -/
def Obligations.ResetLeaves : Prop :=
  State.reset.enc.state = .idle ∧ State.reset.enc.rem.held = false ∧ State.reset.enc.count = 0 ∧
  State.reset.dec.state = .idle ∧ State.reset.dec.acc.held = false ∧ State.reset.dec.shift = 0 ∧
  State.reset.dec.err = .none ∧ State.reset.cmdIllegal = false ∧
  State.reset.status = 0x00000000#32 ∧ State.reset.decResultValid = false

/-- R200: reset in any state sets the block's state to its reset values and moves no stream. That the host's script, the
schedule and the binding are left as they were is the model's choice (log 8), and so are the bits under the two registers
that then hold no value: free values, the same at every reset (log 2). -/
def Obligations.ResetFromAnyState : Prop :=
  ∀ s : State,
    runTurn .reset s = .next { s with
      enc := { state := .idle, rem := { bits := Config.encRemAtReset, held := false }, count := 0 }
      dec := { state := .idle, acc := { bits := Config.decAccAtReset, held := false }, shift := 0, err := .none }
      cmdIllegal := false } ∧
    ∀ t, runTurn .reset s = .next t → t.status = 0x00000000#32 ∧ t.decResultValid = false

/-- R203, R28: only reset clears the sticky bit, and the spec's model fault CmdIllegal survives every step, reset too: no
next state any more, and the fault is CmdIllegal in a run that carries no mark of log 2. -/
def Obligations.IllegalMarksAreSticky : Prop :=
  ∀ s t : State,
    (step s = .next t →
      (s.cmdIllegal = true → t.cmdIllegal = true ∨ (nextTurn s).1 = .reset) ∧
      ((nextTurn s).1 = .reset → t.cmdIllegal = false)) ∧
    (s.faulted = true → specStep s ≠ .next t ∧ (step s = .next t → t.faulted = true ∧
      (s.encRemFaulted = false → s.decAccFaulted = false → specStep s = .fault .cmdIllegal)))

/-- R31, R78, R79: the layout of STATUS with the codes of its fields, the reserved bits 0 in every state; within the
invariants the values the spec rules out never occur; a read changes nothing; and STATUS is 0 at reset. -/
def Obligations.StatusWordLayout : Prop :=
  ∀ s : State,
    s.status.extractLsb' 0 2 =
      (match s.enc.state with | .idle => 0b00#2 | .emitting => 0b01#2 | .done => 0b10#2 | .failed => 0b11#2) ∧
    s.status.extractLsb' 2 4 = s.enc.count ∧
    s.status.extractLsb' 6 2 =
      (match s.dec.state with | .idle => 0b00#2 | .accumulating => 0b01#2 | .done => 0b10#2 | .failed => 0b11#2) ∧
    s.status.extractLsb' 8 2 = (match s.dec.err with | .none => 0b00#2 | .overflow => 0b01#2 | .stream => 0b10#2) ∧
    s.status.extractLsb' 10 7 = s.dec.shift ∧
    s.status.getLsbD 17 = s.cmdIllegal ∧
    s.status.extractLsb' 18 14 = 0#14 ∧
    s.status.extractLsb' 8 2 ≠ 0b11#2 ∧
    (s.EncInv → (s.status.extractLsb' 2 4).toNat ≤ 10) ∧
    (s.DecInv → ∃ k, k ≤ 10 ∧ (s.status.extractLsb' 10 7).toNat = 7 * k) ∧
    hostAct .readStatus s = .next s ∧
    State.reset.status = 0x00000000#32

/-- R32, R180, R206: the result is readable in DONE and only there. -/
def Obligations.ResultWindow : Prop :=
  ∀ s : State,
    (s.decResultValid = true ↔ s.dec.state = .done) ∧
    (∀ v, s.dec.state = .done → s.dec.acc = .of v →
      s.readDecResult = .ok v ∧ hostAct .readResult s = .next s) ∧
    (s.dec.state ≠ .done →
      s.readDecResult = .error .resultNotValid ∧ hostAct .readResult s = .fault .resultNotValid)

/-! ## Streams, the host and other instances -/

/-- R62, R207: one object bound to both engines, another user of a busy engine's stream, and two instances bound to one
stream are each refused. The model's choices here: a shared object refuses every step, a NOP too (log 17), a system that
shares one refuses every step of every instance (log 14), and another user is a turn of its own (log 7). -/
def Obligations.SharedStreamsAreRefused : Prop :=
  (∀ s : State, s.sinkObj = s.srcObj → step s = .refused .sharedStream) ∧
  (∀ (s : State) (bs : List Byte), s.enc.state = .emitting → runTurn (.otherSink bs) s = .refused .streamInUse) ∧
  (∀ (s : State) (l : List Byte), s.dec.state = .accumulating → runTurn (.otherSource l) s = .refused .streamInUse) ∧
  ∀ (k : Nat) (y : List State), ¬ (boundObjects y).Nodup → systemStep k y = .refused .sharedStream

/-- R187: a step of one instance leaves every other instance as it was, and is that instance's own step. That a step of the
system is one step of one instance, and that a number which names none moves nothing, is the model's choice (log 14), and
so is that no step changes a binding (log 20). -/
def Obligations.InstancesShareNothing : Prop :=
  ∀ (k : Nat) (y z : List State), systemStep k y = .next z →
    z.length = y.length ∧ boundObjects z = boundObjects y ∧
    (∀ j, j ≠ k → z[j]? = y[j]?) ∧
    (∀ s, y[k]? = some s → ∃ t, step s = .next t ∧ z[k]? = some t)

/-- R81: the polls, the guarded read, and the expansions of the pseudo-instructions. That the guarded read tests a fresh
STATUS and reads in one step, and that an unfinished poll stands first in the script again, is the model's choice
(log 19). -/
def Obligations.PollsAndPseudoInstructions : Prop :=
  (∀ s : State,
    hostAct .waitEnc s =
      .next (if s.enc.state = .done ∨ s.enc.state = .failed then s else { s with script := .waitEnc :: s.script }) ∧
    hostAct .waitDec s =
      .next (if s.dec.state = .done ∨ s.dec.state = .failed then s else { s with script := .waitDec :: s.script }) ∧
    hostAct .readResultIfDone s = if s.dec.state = .done then hostAct .readResult s else .next s) ∧
  (∀ imm w, assemble (.encStart imm) = some [w] →
    assemble (.encode imm) = some [w, .waitEnc, .present (0b010#3 ++ 0#64 : CmdWord)]) ∧
  assemble .decode =
    some [.present (0b101#3 ++ 0#64 : CmdWord), .waitDec, .readResultIfDone, .present (0b110#3 ++ 0#64 : CmdWord)]

/-- R80, R11: an immediate is assembled as its value mod 2^64 where it is representable in 64 bits and refused elsewhere.
That a `.cmd` line takes all eight op codes is the model's choice (log 13): R80 has it for the reserved ones. -/
def Obligations.AssemblerImmediateRange : Prop :=
  ∀ imm : Int,
    (-(2 ^ 63) ≤ imm ∧ imm < 2 ^ 64 →
      assemble (.encStart imm) = some [.present (0b001#3 ++ BitVec.ofInt 64 imm : CmdWord)] ∧
      ∀ op : BitVec 3, assemble (.cmd op.toNat imm) = some [.present (op ++ BitVec.ofInt 64 imm : CmdWord)]) ∧
    (imm < -(2 ^ 63) ∨ 2 ^ 64 ≤ imm →
      assemble (.encStart imm) = none ∧ assemble (.encode imm) = none ∧ ∀ op, assemble (.cmd op imm) = none)

/-- R11, R26, R103, R145: the signed reading of a pattern, and its inverse at the host. -/
def Obligations.SignedReadingsAgree : Prop :=
  (∀ x : Value, -(2 ^ 63) ≤ signed64 x ∧ signed64 x < 2 ^ 63 ∧ u64Of (signed64 x) = x ∧
    (x.getLsbD 63 = true ↔ signed64 x < 0)) ∧
  ∀ s : Int, (-(2 ^ 63) ≤ s → s < 2 ^ 63 → signed64 (u64Of s) = s) ∧
    (0 ≤ s → s < 2 ^ 64 → ((u64Of s).toNat : Int) = s)
end

