-- ==== Sys2Proof/Laws/Datapath.lean ====
section
/-! SUPPORT. What each datapath element computes, as arithmetic on the unsigned readings. -/

namespace Sys2Proof.Machine

/-- The remainder shifter divides by 128 (R102). -/
theorem remNext_toNat (r : Value) : (remNext r).toNat = r.toNat / 128 := by
  rw [remNext, BitVec.toNat_ushiftRight, Nat.shiftRight_eq_div_pow, Config.groupWidth]

/-- The zero detector fires exactly on remaining values below 128 (R104). -/
theorem isLast_iff (r : Value) : isLast r = true ↔ r.toNat < 128 := by
  unfold isLast
  rw [beq_iff_eq, ← BitVec.toNat_inj, remNext_toNat]
  change r.toNat / 128 = 0 ↔ r.toNat < 128
  omega

/-- The shift counter never wraps while it is at most 120 (R135). -/
theorem shiftNext_toNat (sh : BitVec 7) (h : sh.toNat ≤ 120) : (shiftNext sh).toNat = sh.toNat + 7 := by
  unfold shiftNext
  rw [BitVec.toNat_add]
  change (sh.toNat + 7) % 128 = sh.toNat + 7
  omega

/-- The overflow comparator (R134). -/
theorem shiftOverflow_iff (sh : BitVec 7) : shiftOverflow sh = true ↔ 64 ≤ sh.toNat := by
  simp [shiftOverflow]

/-- The combiner keeps the accumulator below the next power: `k` groups fill at most `7k` bits (R36). -/
theorem accNext_lt (acc : Value) (g : Group) (sh : BitVec 7) (h : acc.toNat < 2 ^ min 64 sh.toNat) :
    (accNext acc g sh).toNat < 2 ^ min 64 (sh.toNat + 7) := by
  have hg : g.toNat < 2 ^ 7 := g.isLt
  have hz : (zext64 g).toNat = g.toNat := by
    simp only [zext64, BitVec.toNat_setWidth]
    exact Nat.mod_eq_of_lt (by omega)
  have hle : 2 ^ min 64 sh.toNat ≤ 2 ^ min 64 (sh.toNat + 7) := Nat.pow_le_pow_right (by decide) (by omega)
  rw [accNext, BitVec.toNat_or, BitVec.toNat_shiftLeft, hz]
  refine Nat.or_lt_two_pow (by omega) ?_
  rcases Nat.lt_or_ge (sh.toNat + 7) 64 with hlt | hge
  · rw [Nat.min_eq_right (by omega)]
    refine lt_of_le_of_lt (Nat.mod_le _ _) ?_
    rw [Nat.shiftLeft_eq, Nat.pow_add, Nat.mul_comm]
    exact Nat.mul_lt_mul_of_pos_left hg (by positivity)
  · rw [Nat.min_eq_left hge]
    exact Nat.mod_lt _ (by decide)

end Sys2Proof.Machine
end

