-- ==== Sys2Proof/Laws/State.lean ====
section
/-! SUPPORT. One lemma per field per update of the state, each true by definition, so that no later proof unfolds a record
update. -/

namespace Sys2Proof.Machine

/-! `State.setEnc` -/

@[simp] theorem State.setEnc_enc (s : State) (e : EncEngine) : (s.setEnc e).enc = e := rfl
@[simp] theorem State.setEnc_dec (s : State) (e : EncEngine) : (s.setEnc e).dec = s.dec := rfl
@[simp] theorem State.setEnc_cmdIllegal (s : State) (e : EncEngine) : (s.setEnc e).cmdIllegal = s.cmdIllegal := rfl
@[simp] theorem State.setEnc_sinkLog (s : State) (e : EncEngine) : (s.setEnc e).sinkLog = s.sinkLog := rfl
@[simp] theorem State.setEnc_srcRest (s : State) (e : EncEngine) : (s.setEnc e).srcRest = s.srcRest := rfl
@[simp] theorem State.setEnc_sinkObj (s : State) (e : EncEngine) : (s.setEnc e).sinkObj = s.sinkObj := rfl
@[simp] theorem State.setEnc_srcObj (s : State) (e : EncEngine) : (s.setEnc e).srcObj = s.srcObj := rfl
@[simp] theorem State.setEnc_script (s : State) (e : EncEngine) : (s.setEnc e).script = s.script := rfl
@[simp] theorem State.setEnc_schedule (s : State) (e : EncEngine) : (s.setEnc e).schedule = s.schedule := rfl
@[simp] theorem State.setEnc_draws (s : State) (e : EncEngine) : (s.setEnc e).draws = s.draws := rfl
@[simp] theorem State.setEnc_faulted (s : State) (e : EncEngine) : (s.setEnc e).faulted = s.faulted := rfl
@[simp] theorem State.setEnc_encRemFaulted (s : State) (e : EncEngine) :
    (s.setEnc e).encRemFaulted = s.encRemFaulted := rfl
@[simp] theorem State.setEnc_decAccFaulted (s : State) (e : EncEngine) :
    (s.setEnc e).decAccFaulted = s.decAccFaulted := rfl

/-! `State.setDec` -/

@[simp] theorem State.setDec_enc (s : State) (d : DecEngine) : (s.setDec d).enc = s.enc := rfl
@[simp] theorem State.setDec_dec (s : State) (d : DecEngine) : (s.setDec d).dec = d := rfl
@[simp] theorem State.setDec_cmdIllegal (s : State) (d : DecEngine) : (s.setDec d).cmdIllegal = s.cmdIllegal := rfl
@[simp] theorem State.setDec_sinkLog (s : State) (d : DecEngine) : (s.setDec d).sinkLog = s.sinkLog := rfl
@[simp] theorem State.setDec_srcRest (s : State) (d : DecEngine) : (s.setDec d).srcRest = s.srcRest := rfl
@[simp] theorem State.setDec_sinkObj (s : State) (d : DecEngine) : (s.setDec d).sinkObj = s.sinkObj := rfl
@[simp] theorem State.setDec_srcObj (s : State) (d : DecEngine) : (s.setDec d).srcObj = s.srcObj := rfl
@[simp] theorem State.setDec_script (s : State) (d : DecEngine) : (s.setDec d).script = s.script := rfl
@[simp] theorem State.setDec_schedule (s : State) (d : DecEngine) : (s.setDec d).schedule = s.schedule := rfl
@[simp] theorem State.setDec_draws (s : State) (d : DecEngine) : (s.setDec d).draws = s.draws := rfl
@[simp] theorem State.setDec_faulted (s : State) (d : DecEngine) : (s.setDec d).faulted = s.faulted := rfl
@[simp] theorem State.setDec_encRemFaulted (s : State) (d : DecEngine) :
    (s.setDec d).encRemFaulted = s.encRemFaulted := rfl
@[simp] theorem State.setDec_decAccFaulted (s : State) (d : DecEngine) :
    (s.setDec d).decAccFaulted = s.decAccFaulted := rfl

/-! `State.setSinkLog` -/

@[simp] theorem State.setSinkLog_enc (s : State) (l : List Byte) : (s.setSinkLog l).enc = s.enc := rfl
@[simp] theorem State.setSinkLog_dec (s : State) (l : List Byte) : (s.setSinkLog l).dec = s.dec := rfl
@[simp] theorem State.setSinkLog_cmdIllegal (s : State) (l : List Byte) : (s.setSinkLog l).cmdIllegal = s.cmdIllegal := rfl
@[simp] theorem State.setSinkLog_sinkLog (s : State) (l : List Byte) : (s.setSinkLog l).sinkLog = l := rfl
@[simp] theorem State.setSinkLog_srcRest (s : State) (l : List Byte) : (s.setSinkLog l).srcRest = s.srcRest := rfl
@[simp] theorem State.setSinkLog_sinkObj (s : State) (l : List Byte) : (s.setSinkLog l).sinkObj = s.sinkObj := rfl
@[simp] theorem State.setSinkLog_srcObj (s : State) (l : List Byte) : (s.setSinkLog l).srcObj = s.srcObj := rfl
@[simp] theorem State.setSinkLog_script (s : State) (l : List Byte) : (s.setSinkLog l).script = s.script := rfl
@[simp] theorem State.setSinkLog_schedule (s : State) (l : List Byte) : (s.setSinkLog l).schedule = s.schedule := rfl
@[simp] theorem State.setSinkLog_draws (s : State) (l : List Byte) : (s.setSinkLog l).draws = s.draws := rfl
@[simp] theorem State.setSinkLog_faulted (s : State) (l : List Byte) : (s.setSinkLog l).faulted = s.faulted := rfl
@[simp] theorem State.setSinkLog_encRemFaulted (s : State) (l : List Byte) :
    (s.setSinkLog l).encRemFaulted = s.encRemFaulted := rfl
@[simp] theorem State.setSinkLog_decAccFaulted (s : State) (l : List Byte) :
    (s.setSinkLog l).decAccFaulted = s.decAccFaulted := rfl

/-! `State.setSrcRest` -/

@[simp] theorem State.setSrcRest_enc (s : State) (l : List Byte) : (s.setSrcRest l).enc = s.enc := rfl
@[simp] theorem State.setSrcRest_dec (s : State) (l : List Byte) : (s.setSrcRest l).dec = s.dec := rfl
@[simp] theorem State.setSrcRest_cmdIllegal (s : State) (l : List Byte) : (s.setSrcRest l).cmdIllegal = s.cmdIllegal := rfl
@[simp] theorem State.setSrcRest_sinkLog (s : State) (l : List Byte) : (s.setSrcRest l).sinkLog = s.sinkLog := rfl
@[simp] theorem State.setSrcRest_srcRest (s : State) (l : List Byte) : (s.setSrcRest l).srcRest = l := rfl
@[simp] theorem State.setSrcRest_sinkObj (s : State) (l : List Byte) : (s.setSrcRest l).sinkObj = s.sinkObj := rfl
@[simp] theorem State.setSrcRest_srcObj (s : State) (l : List Byte) : (s.setSrcRest l).srcObj = s.srcObj := rfl
@[simp] theorem State.setSrcRest_script (s : State) (l : List Byte) : (s.setSrcRest l).script = s.script := rfl
@[simp] theorem State.setSrcRest_schedule (s : State) (l : List Byte) : (s.setSrcRest l).schedule = s.schedule := rfl
@[simp] theorem State.setSrcRest_draws (s : State) (l : List Byte) : (s.setSrcRest l).draws = s.draws := rfl
@[simp] theorem State.setSrcRest_faulted (s : State) (l : List Byte) : (s.setSrcRest l).faulted = s.faulted := rfl
@[simp] theorem State.setSrcRest_encRemFaulted (s : State) (l : List Byte) :
    (s.setSrcRest l).encRemFaulted = s.encRemFaulted := rfl
@[simp] theorem State.setSrcRest_decAccFaulted (s : State) (l : List Byte) :
    (s.setSrcRest l).decAccFaulted = s.decAccFaulted := rfl

/-! `State.setScript` -/

@[simp] theorem State.setScript_enc (s : State) (l : List HostItem) : (s.setScript l).enc = s.enc := rfl
@[simp] theorem State.setScript_dec (s : State) (l : List HostItem) : (s.setScript l).dec = s.dec := rfl
@[simp] theorem State.setScript_cmdIllegal (s : State) (l : List HostItem) : (s.setScript l).cmdIllegal = s.cmdIllegal := rfl
@[simp] theorem State.setScript_sinkLog (s : State) (l : List HostItem) : (s.setScript l).sinkLog = s.sinkLog := rfl
@[simp] theorem State.setScript_srcRest (s : State) (l : List HostItem) : (s.setScript l).srcRest = s.srcRest := rfl
@[simp] theorem State.setScript_sinkObj (s : State) (l : List HostItem) : (s.setScript l).sinkObj = s.sinkObj := rfl
@[simp] theorem State.setScript_srcObj (s : State) (l : List HostItem) : (s.setScript l).srcObj = s.srcObj := rfl
@[simp] theorem State.setScript_script (s : State) (l : List HostItem) : (s.setScript l).script = l := rfl
@[simp] theorem State.setScript_schedule (s : State) (l : List HostItem) : (s.setScript l).schedule = s.schedule := rfl
@[simp] theorem State.setScript_draws (s : State) (l : List HostItem) : (s.setScript l).draws = s.draws := rfl
@[simp] theorem State.setScript_faulted (s : State) (l : List HostItem) : (s.setScript l).faulted = s.faulted := rfl
@[simp] theorem State.setScript_encRemFaulted (s : State) (l : List HostItem) :
    (s.setScript l).encRemFaulted = s.encRemFaulted := rfl
@[simp] theorem State.setScript_decAccFaulted (s : State) (l : List HostItem) :
    (s.setScript l).decAccFaulted = s.decAccFaulted := rfl

/-! `State.setSchedule` -/

@[simp] theorem State.setSchedule_enc (s : State) (l : List Turn) : (s.setSchedule l).enc = s.enc := rfl
@[simp] theorem State.setSchedule_dec (s : State) (l : List Turn) : (s.setSchedule l).dec = s.dec := rfl
@[simp] theorem State.setSchedule_cmdIllegal (s : State) (l : List Turn) : (s.setSchedule l).cmdIllegal = s.cmdIllegal := rfl
@[simp] theorem State.setSchedule_sinkLog (s : State) (l : List Turn) : (s.setSchedule l).sinkLog = s.sinkLog := rfl
@[simp] theorem State.setSchedule_srcRest (s : State) (l : List Turn) : (s.setSchedule l).srcRest = s.srcRest := rfl
@[simp] theorem State.setSchedule_sinkObj (s : State) (l : List Turn) : (s.setSchedule l).sinkObj = s.sinkObj := rfl
@[simp] theorem State.setSchedule_srcObj (s : State) (l : List Turn) : (s.setSchedule l).srcObj = s.srcObj := rfl
@[simp] theorem State.setSchedule_script (s : State) (l : List Turn) : (s.setSchedule l).script = s.script := rfl
@[simp] theorem State.setSchedule_schedule (s : State) (l : List Turn) : (s.setSchedule l).schedule = l := rfl
@[simp] theorem State.setSchedule_draws (s : State) (l : List Turn) : (s.setSchedule l).draws = s.draws := rfl
@[simp] theorem State.setSchedule_faulted (s : State) (l : List Turn) : (s.setSchedule l).faulted = s.faulted := rfl
@[simp] theorem State.setSchedule_encRemFaulted (s : State) (l : List Turn) :
    (s.setSchedule l).encRemFaulted = s.encRemFaulted := rfl
@[simp] theorem State.setSchedule_decAccFaulted (s : State) (l : List Turn) :
    (s.setSchedule l).decAccFaulted = s.decAccFaulted := rfl

/-! `State.countDraw` -/

@[simp] theorem State.countDraw_enc (s : State) : (s.countDraw).enc = s.enc := rfl
@[simp] theorem State.countDraw_dec (s : State) : (s.countDraw).dec = s.dec := rfl
@[simp] theorem State.countDraw_cmdIllegal (s : State) : (s.countDraw).cmdIllegal = s.cmdIllegal := rfl
@[simp] theorem State.countDraw_sinkLog (s : State) : (s.countDraw).sinkLog = s.sinkLog := rfl
@[simp] theorem State.countDraw_srcRest (s : State) : (s.countDraw).srcRest = s.srcRest := rfl
@[simp] theorem State.countDraw_sinkObj (s : State) : (s.countDraw).sinkObj = s.sinkObj := rfl
@[simp] theorem State.countDraw_srcObj (s : State) : (s.countDraw).srcObj = s.srcObj := rfl
@[simp] theorem State.countDraw_script (s : State) : (s.countDraw).script = s.script := rfl
@[simp] theorem State.countDraw_schedule (s : State) : (s.countDraw).schedule = s.schedule := rfl
@[simp] theorem State.countDraw_draws (s : State) : (s.countDraw).draws = s.draws + 1 := rfl
@[simp] theorem State.countDraw_faulted (s : State) : (s.countDraw).faulted = s.faulted := rfl
@[simp] theorem State.countDraw_encRemFaulted (s : State) :
    (s.countDraw).encRemFaulted = s.encRemFaulted := rfl
@[simp] theorem State.countDraw_decAccFaulted (s : State) :
    (s.countDraw).decAccFaulted = s.decAccFaulted := rfl

/-! `State.resetBlock` -/

@[simp] theorem State.resetBlock_enc (s : State) : (s.resetBlock).enc = EncEngine.reset := rfl
@[simp] theorem State.resetBlock_dec (s : State) : (s.resetBlock).dec = DecEngine.reset := rfl
@[simp] theorem State.resetBlock_cmdIllegal (s : State) : (s.resetBlock).cmdIllegal = false := rfl
@[simp] theorem State.resetBlock_sinkLog (s : State) : (s.resetBlock).sinkLog = s.sinkLog := rfl
@[simp] theorem State.resetBlock_srcRest (s : State) : (s.resetBlock).srcRest = s.srcRest := rfl
@[simp] theorem State.resetBlock_sinkObj (s : State) : (s.resetBlock).sinkObj = s.sinkObj := rfl
@[simp] theorem State.resetBlock_srcObj (s : State) : (s.resetBlock).srcObj = s.srcObj := rfl
@[simp] theorem State.resetBlock_script (s : State) : (s.resetBlock).script = s.script := rfl
@[simp] theorem State.resetBlock_schedule (s : State) : (s.resetBlock).schedule = s.schedule := rfl
@[simp] theorem State.resetBlock_draws (s : State) : (s.resetBlock).draws = s.draws := rfl
@[simp] theorem State.resetBlock_faulted (s : State) : (s.resetBlock).faulted = s.faulted := rfl
@[simp] theorem State.resetBlock_encRemFaulted (s : State) :
    (s.resetBlock).encRemFaulted = s.encRemFaulted := rfl
@[simp] theorem State.resetBlock_decAccFaulted (s : State) :
    (s.resetBlock).decAccFaulted = s.decAccFaulted := rfl

/-! Reading a datapath register: one mark, and nothing at all while it holds a value -/

@[simp] theorem State.noteEncRem_enc (s : State) : s.noteEncRem.enc = s.enc := rfl
@[simp] theorem State.noteEncRem_dec (s : State) : s.noteEncRem.dec = s.dec := rfl
@[simp] theorem State.noteEncRem_cmdIllegal (s : State) : s.noteEncRem.cmdIllegal = s.cmdIllegal := rfl
@[simp] theorem State.noteEncRem_sinkLog (s : State) : s.noteEncRem.sinkLog = s.sinkLog := rfl
@[simp] theorem State.noteEncRem_srcRest (s : State) : s.noteEncRem.srcRest = s.srcRest := rfl
@[simp] theorem State.noteEncRem_sinkObj (s : State) : s.noteEncRem.sinkObj = s.sinkObj := rfl
@[simp] theorem State.noteEncRem_srcObj (s : State) : s.noteEncRem.srcObj = s.srcObj := rfl
@[simp] theorem State.noteEncRem_script (s : State) : s.noteEncRem.script = s.script := rfl
@[simp] theorem State.noteEncRem_schedule (s : State) : s.noteEncRem.schedule = s.schedule := rfl
@[simp] theorem State.noteEncRem_draws (s : State) : s.noteEncRem.draws = s.draws := rfl
@[simp] theorem State.noteEncRem_faulted (s : State) : s.noteEncRem.faulted = s.faulted := rfl
@[simp] theorem State.noteEncRem_encRemFaulted (s : State) :
    s.noteEncRem.encRemFaulted = (s.encRemFaulted || !s.enc.rem.held) := rfl
@[simp] theorem State.noteEncRem_decAccFaulted (s : State) : s.noteEncRem.decAccFaulted = s.decAccFaulted := rfl
/-- Reading a register that holds a value marks nothing. -/
theorem State.noteEncRem_of_held {s : State} (h : s.enc.rem.held = true) : s.noteEncRem = s := by
  simp [State.noteEncRem, h]
@[simp] theorem State.noteDecAcc_enc (s : State) : s.noteDecAcc.enc = s.enc := rfl
@[simp] theorem State.noteDecAcc_dec (s : State) : s.noteDecAcc.dec = s.dec := rfl
@[simp] theorem State.noteDecAcc_cmdIllegal (s : State) : s.noteDecAcc.cmdIllegal = s.cmdIllegal := rfl
@[simp] theorem State.noteDecAcc_sinkLog (s : State) : s.noteDecAcc.sinkLog = s.sinkLog := rfl
@[simp] theorem State.noteDecAcc_srcRest (s : State) : s.noteDecAcc.srcRest = s.srcRest := rfl
@[simp] theorem State.noteDecAcc_sinkObj (s : State) : s.noteDecAcc.sinkObj = s.sinkObj := rfl
@[simp] theorem State.noteDecAcc_srcObj (s : State) : s.noteDecAcc.srcObj = s.srcObj := rfl
@[simp] theorem State.noteDecAcc_script (s : State) : s.noteDecAcc.script = s.script := rfl
@[simp] theorem State.noteDecAcc_schedule (s : State) : s.noteDecAcc.schedule = s.schedule := rfl
@[simp] theorem State.noteDecAcc_draws (s : State) : s.noteDecAcc.draws = s.draws := rfl
@[simp] theorem State.noteDecAcc_faulted (s : State) : s.noteDecAcc.faulted = s.faulted := rfl
@[simp] theorem State.noteDecAcc_encRemFaulted (s : State) : s.noteDecAcc.encRemFaulted = s.encRemFaulted := rfl
@[simp] theorem State.noteDecAcc_decAccFaulted (s : State) :
    s.noteDecAcc.decAccFaulted = (s.decAccFaulted || !s.dec.acc.held) := rfl
/-- Reading a register that holds a value marks nothing. -/
theorem State.noteDecAcc_of_held {s : State} (h : s.dec.acc.held = true) : s.noteDecAcc = s := by
  simp [State.noteDecAcc, h]

/-! `State.raise`: the three engine events are one engine update; CMD_ILLEGAL touches the two bits only -/

@[simp] theorem State.raise_overflow (s : State) :
    s.raise .overflow = s.setDec { s.dec with state := .failed, err := .overflow } := rfl
@[simp] theorem State.raise_stream (s : State) :
    s.raise .stream = s.setDec { s.dec with state := .failed, err := .stream } := rfl
@[simp] theorem State.raise_sinkReject (s : State) :
    s.raise .sinkReject = s.setEnc { s.enc with state := .failed } := rfl
@[simp] theorem State.raise_cmdIllegal_enc (s : State) : (s.raise .cmdIllegal).enc = s.enc := rfl
@[simp] theorem State.raise_cmdIllegal_dec (s : State) : (s.raise .cmdIllegal).dec = s.dec := rfl
@[simp] theorem State.raise_cmdIllegal_cmdIllegal (s : State) : (s.raise .cmdIllegal).cmdIllegal = true := rfl
@[simp] theorem State.raise_cmdIllegal_sinkLog (s : State) : (s.raise .cmdIllegal).sinkLog = s.sinkLog := rfl
@[simp] theorem State.raise_cmdIllegal_srcRest (s : State) : (s.raise .cmdIllegal).srcRest = s.srcRest := rfl
@[simp] theorem State.raise_cmdIllegal_sinkObj (s : State) : (s.raise .cmdIllegal).sinkObj = s.sinkObj := rfl
@[simp] theorem State.raise_cmdIllegal_srcObj (s : State) : (s.raise .cmdIllegal).srcObj = s.srcObj := rfl
@[simp] theorem State.raise_cmdIllegal_script (s : State) : (s.raise .cmdIllegal).script = s.script := rfl
@[simp] theorem State.raise_cmdIllegal_schedule (s : State) : (s.raise .cmdIllegal).schedule = s.schedule := rfl
@[simp] theorem State.raise_cmdIllegal_draws (s : State) : (s.raise .cmdIllegal).draws = s.draws := rfl
@[simp] theorem State.raise_cmdIllegal_faulted (s : State) : (s.raise .cmdIllegal).faulted = true := rfl
@[simp] theorem State.raise_cmdIllegal_encRemFaulted (s : State) :
    (s.raise .cmdIllegal).encRemFaulted = s.encRemFaulted := rfl
@[simp] theorem State.raise_cmdIllegal_decAccFaulted (s : State) :
    (s.raise .cmdIllegal).decAccFaulted = s.decAccFaulted := rfl

/-! Beginning and ending a call are engine updates -/

@[simp] theorem State.encBegin_eq (s : State) (v : Value) : s.encBegin v = s.setEnc ⟨.emitting, .of v, 0⟩ := rfl
@[simp] theorem State.decBegin_eq (s : State) : s.decBegin = s.setDec ⟨.accumulating, .of 0, 0, .none⟩ := rfl
@[simp] theorem State.encReturn_eq (s : State) : s.encReturn = s.setEnc { s.enc with state := .idle } := rfl
@[simp] theorem State.decReturn_eq (s : State) :
    s.decReturn = s.setDec { s.dec with state := .idle, err := .none } := rfl

end Sys2Proof.Machine
end

