-- ==== Sys2Proof/Laws/Ops.lean ====
section
/-! SUPPORT. Once for each shared operation and engine step: everything it can do. -/

namespace Sys2Proof.Machine

/-- A read of the source: FAIL with nothing consumed, or its first byte consumed (R53). -/
theorem sourceRead_cases {m : SourceMove} {s s' : State} {a : SourceAnswer} (h : sourceRead m s = (a, s')) :
    (a = .fail ∧ s' = s ∧ (m = .fail ∨ s.srcRest = [])) ∨
    ∃ b rest, m = .serve ∧ s.srcRest = b :: rest ∧ a = .byte b ∧ s' = s.setSrcRest rest := by
  cases m with
  | fail =>
    simp only [sourceRead, Prod.mk.injEq] at h
    exact .inl ⟨h.1.symm, h.2.symm, .inl rfl⟩
  | serve =>
    rcases hr : s.srcRest with _ | ⟨b, rest⟩ <;> simp only [sourceRead, hr, Prod.mk.injEq] at h
    · exact .inl ⟨h.1.symm, h.2.symm, .inr rfl⟩
    · exact .inr ⟨b, rest, rfl, rfl, h.1.symm, h.2.symm⟩

/-- Acceptance of a command: its effect, or the illegal-command event (R90, R92). It never stops. -/
theorem accept_cases {i : Instr} {f : State → State} {s : State} {o : Outcome} (h : accept i f s = o) :
    (admissible i s = true ∧ o = .next (f s)) ∨ (admissible i s = false ∧ o = .next (s.raise .cmdIllegal)) := by
  unfold accept at h
  split at h
  · next hc => exact .inl ⟨hc, h.symm⟩
  · next hc => exact .inr ⟨Bool.eq_false_iff.mpr hc, h.symm⟩

/-- The effect of a command when it is admissible (R93, R106, R108, R136, R138). -/
theorem exec_eq_accept (i : Instr) (s : State) :
    exec i s = accept i (match i with
      | .encStart v => fun t => t.encBegin v
      | .encAck => State.encReturn
      | .decStart => State.decBegin
      | .decAck => State.decReturn
      | .nop => id
      | .reserved011 => id
      | .reserved100 => id
      | .reserved111 => id) s := by
  cases i <;> rfl

/-- ENC.EMIT: not enabled, a byte accepted, or a byte rejected (R107, R109). -/
theorem encEmit_cases {a : SinkAnswer} {s t : State} (h : encEmit a s = .next t) :
    (s.enc.state ≠ .emitting ∧ t = s) ∨
    (s.enc.state = .emitting ∧ a = .accept ∧
      t = (s.noteEncRem.setSinkLog (s.sinkLog ++ [emitByte s.enc.rem.bits])).setEnc
        (s.enc.afterAccept s.enc.rem.bits)) ∨
    (s.enc.state = .emitting ∧ a = .reject ∧ t = s.noteEncRem.setEnc { s.enc with state := .failed }) := by
  rcases hs : s.enc.state <;> simp only [encEmit, hs] at h <;> cases h
  case emitting => cases a <;> simp [encOffer, sinkWrite]
  all_goals simp

/-- ENC.EMIT never stops the machine (R107). -/
theorem encEmit_next (a : SinkAnswer) (s : State) : ∃ t, encEmit a s = .next t := by
  rcases hs : s.enc.state <;> simp [encEmit, hs]

/-- What becomes of a byte read: the call fails, or the byte is combined into the accumulator (R137, R141). -/
theorem decTake_cases (b : Byte) (s : State) :
    (64 ≤ s.dec.shift.toNat ∧ decTake b s = s.setDec { s.dec with state := .failed, err := .overflow }) ∨
    (s.dec.shift.toNat < 64 ∧ decTake b s = s.noteDecAcc.setDec (s.dec.afterByte s.dec.acc.bits b)) := by
  unfold decTake
  split
  · next h => exact .inl ⟨by simpa [shiftOverflow] using h, rfl⟩
  · next h => exact .inr ⟨by simpa [shiftOverflow] using h, rfl⟩

/-- DEC.READ: not enabled, source failure, overflow, or a byte combined (R137, R139, R141). -/
theorem decRead_cases {m : SourceMove} {s t : State} (h : decRead m s = .next t) :
    (s.dec.state ≠ .accumulating ∧ t = s) ∨
    (s.dec.state = .accumulating ∧ (m = .fail ∨ s.srcRest = []) ∧
      t = s.setDec { s.dec with state := .failed, err := .stream }) ∨
    ∃ b rest, s.dec.state = .accumulating ∧ m = .serve ∧ s.srcRest = b :: rest ∧
      ((64 ≤ s.dec.shift.toNat ∧
          t = (s.setSrcRest rest).setDec { s.dec with state := .failed, err := .overflow }) ∨
       (s.dec.shift.toNat < 64 ∧
          t = (s.setSrcRest rest).noteDecAcc.setDec (s.dec.afterByte s.dec.acc.bits b))) := by
  rcases hs : s.dec.state <;> simp only [decRead, hs] at h
  case accumulating =>
    rcases hr : sourceRead m s with ⟨a, s'⟩
    rw [hr] at h
    rcases sourceRead_cases hr with ⟨rfl, rfl, hm⟩ | ⟨b, rest, rfl, hsrc, rfl, rfl⟩ <;> cases h
    · exact .inr (.inl ⟨rfl, hm, rfl⟩)
    · exact .inr (.inr ⟨b, rest, rfl, rfl, hsrc, decTake_cases b (s.setSrcRest rest)⟩)
  all_goals
    cases h
    exact .inl ⟨by simp, rfl⟩

/-- DEC.READ never stops the machine (R137). -/
theorem decRead_next (m : SourceMove) (s : State) : ∃ t, decRead m s = .next t := by
  rcases hs : s.dec.state <;> simp [decRead, hs]
  rcases sourceRead m s with ⟨_ | _, s'⟩ <;> simp

/-- A command never stops the machine (R90, R92). -/
theorem exec_next (i : Instr) (s : State) : ∃ t, exec i s = .next t := by
  rw [exec_eq_accept]
  unfold accept
  split <;> exact ⟨_, rfl⟩

end Sys2Proof.Machine
end

