-- ==== Sys2Proof/Laws/PerInstr.lean ====
section
/-! SUPPORT. The family of statements about each command as syntax: its word carries its op code in CMD[66:64] and its
operand in CMD[63:0] (R73, R74, R75). -/

namespace Sys2Proof

/-- The op field of a word written `op:value` (R73). -/
theorem opField_cmdWord (op : BitVec 3) (v : Value) : opField (cmdWord op v) = op := by
  unfold opField cmdWord
  refine BitVec.eq_of_getLsbD_eq fun i hi => ?_
  rw [BitVec.getLsbD_extractLsb']
  have h := BitVec.getLsbD_append (x := op) (y := v) (i := 64 + i)
  rw [if_neg (by omega), show 64 + i - 64 = i by omega] at h
  simpa [hi] using h

/-- The value field of a word written `op:value` (R73). -/
theorem valueField_cmdWord (op : BitVec 3) (v : Value) : valueField (cmdWord op v) = v := by
  unfold valueField cmdWord
  refine BitVec.eq_of_getLsbD_eq fun i hi => ?_
  rw [BitVec.getLsbD_extractLsb']
  have h := BitVec.getLsbD_append (x := op) (y := v) (i := 0 + i)
  rw [if_pos (by omega), show 0 + i = i by omega] at h
  simpa [hi] using h

end Sys2Proof

namespace Sys2Proof.Laws.WordFields

/-- The command's word holds its op code and its operand in their fields, and nothing outside the 67 bits. -/
def Statement (i : Instr) : Prop := opField (encode i) = opOf i ∧ valueField (encode i) = valueOf i

/-- The statement for any command, from the two field lemmas. -/
theorem of_fields (i : Instr) : Statement i := ⟨opField_cmdWord _ _, valueField_cmdWord _ _⟩

theorem nop : Statement .nop := of_fields _
theorem encStart (value : Value) : Statement (.encStart value) := of_fields _
theorem encAck : Statement .encAck := of_fields _
theorem reserved011 : Statement .reserved011 := of_fields _
theorem reserved100 : Statement .reserved100 := of_fields _
theorem decStart : Statement .decStart := of_fields _
theorem decAck : Statement .decAck := of_fields _
theorem reserved111 : Statement .reserved111 := of_fields _

end Sys2Proof.Laws.WordFields
end

