-- ==== Sys2Proof/Laws/Ports.lean ====
section
/-! SUPPORT. The STATUS word as a number, its state fields, the polls on them, and what a read of DEC_RESULT can answer. -/

namespace Sys2Proof.Machine

/-- A concatenation as a number: the high part shifted up by the width of the low part. -/
theorem toNat_append_add {m n : Nat} (x : BitVec m) (y : BitVec n) : (x ++ y).toNat = x.toNat * 2 ^ n + y.toNat := by
  rw [BitVec.toNat_append, ← Nat.shiftLeft_add_eq_or_of_lt y.isLt, Nat.shiftLeft_eq]

/-- STATUS as a number: each field at its place in R31, the bits above 17 zero. -/
theorem status_toNat (s : State) :
    s.status.toNat = s.enc.state.code.toNat + 4 * s.enc.count.toNat + 64 * s.dec.state.code.toNat +
      256 * s.dec.err.code.toNat + 1024 * s.dec.shift.toNat + 131072 * s.cmdIllegal.toNat := by
  unfold State.status
  rw [toNat_append_add, toNat_append_add, toNat_append_add, toNat_append_add, toNat_append_add, toNat_append_add,
    BitVec.toNat_ofBool]
  simp only [BitVec.toNat_ofNat]
  omega

/-- A read of DEC_RESULT answers the accumulator in DONE, and otherwise faults (R32). -/
theorem readDecResult_cases (s : State) :
    (s.dec.state = .done ∧ s.readDecResult = .ok s.dec.acc.bits) ∨
    (s.dec.state ≠ .done ∧ s.readDecResult = .error .resultNotValid) := by
  unfold State.readDecResult State.decResultValid
  rcases hs : s.dec.state <;> simp

/-- The encoder's state code in its place in STATUS (R31). -/
theorem status_encField (s : State) : s.status.extractLsb' 0 2 = s.enc.state.code := by
  apply BitVec.eq_of_toNat_eq
  have h := s.enc.state.code.isLt
  rw [BitVec.extractLsb'_toNat, status_toNat]
  simp only [Nat.shiftRight_zero]
  omega

/-- The decoder's state code in its place in STATUS (R31). -/
theorem status_decField (s : State) : s.status.extractLsb' 6 2 = s.dec.state.code := by
  apply BitVec.eq_of_toNat_eq
  have h1 := s.enc.state.code.isLt
  have h2 := s.enc.count.isLt
  have h3 := s.dec.state.code.isLt
  rw [BitVec.extractLsb'_toNat, status_toNat, Nat.shiftRight_eq_div_pow]
  omega

/-- A poll for the encoder is over exactly in DONE and FAILED (R81). -/
theorem encEnded_iff (s : State) : s.encEnded = true ↔ s.enc.state = .done ∨ s.enc.state = .failed := by
  unfold State.encEnded
  rw [status_encField]
  cases s.enc.state <;> decide

/-- A poll for the decoder is over exactly in DONE and FAILED (R81). -/
theorem decEnded_iff (s : State) : s.decEnded = true ↔ s.dec.state = .done ∨ s.dec.state = .failed := by
  unfold State.decEnded
  rw [status_decField]
  cases s.dec.state <;> decide

/-- The guard of DECODE's result read holds exactly in DONE (R81). -/
theorem decDone_iff (s : State) : s.decDone = true ↔ s.dec.state = .done := by
  unfold State.decDone
  rw [status_decField]
  cases s.dec.state <;> decide

end Sys2Proof.Machine
end

