-- ==== Sys2Proof/Laws/Safety.lean ====
section
/-! SUPPORT. What the spec's model fault of a run is, in terms of the model's marks. -/

namespace Sys2Proof.Machine

/-- A run has raised no model fault exactly when it carries none of the three marks (R12, R203). -/
theorem safe_iff (s : State) : s.Safe ↔ s.faulted = false ∧ s.encRemFaulted = false ∧ s.decAccFaulted = false := by
  unfold State.Safe State.specFault
  cases s.faulted <;> cases s.encRemFaulted <;> cases s.decAccFaulted <;> simp

/-- CmdIllegal is the fault of every run that carries its mark, and of no other (R92). -/
theorem specFault_cmdIllegal_iff (s : State) : s.specFault = some .cmdIllegal ↔ s.faulted = true := by
  unfold State.specFault
  cases s.faulted <;> cases s.encRemFaulted <;> cases s.decAccFaulted <;> simp

/-- An outcome is admitted by the spec's model exactly when it goes on to a state without a model fault (R175). -/
theorem specOutcome_next_iff (o : Outcome) (t : State) : specOutcome o = .next t ↔ o = .next t ∧ t.Safe := by
  unfold specOutcome State.Safe
  rcases o with u | f | r
  · rcases hu : u.specFault with _ | f
    · simp only [hu, Host.Outcome.next.injEq]
      exact ⟨fun h => ⟨h, h ▸ hu⟩, And.left⟩
    · simp only [hu, reduceCtorEq, false_iff, Host.Outcome.next.injEq, not_and]
      rintro rfl h
      rw [hu] at h
      cases h
  · simp
  · simp

end Sys2Proof.Machine
end

