-- ==== Sys2Proof/Laws/Step.lean ====
section
/-! SUPPORT. What a step of the whole machine can do: the turn it takes, and what each turn runs. -/

namespace Sys2Proof.Machine

/-- Taking a turn changes the schedule or the draw count, nothing else. -/
theorem nextTurn_cases (s : State) :
    (∃ t rest, s.schedule = t :: rest ∧ nextTurn s = (t, s.setSchedule rest)) ∨
    (s.schedule = [] ∧ nextTurn s = (Config.freeTurn s.draws, s.countDraw)) := by
  rcases h : s.schedule with _ | ⟨t, rest⟩ <;> simp [nextTurn, h]

/-- Taking a host action changes the script or the draw count, nothing else. -/
theorem nextItem_cases (s : State) :
    (∃ i rest, s.script = i :: rest ∧ nextItem s = (i, s.setScript rest)) ∨
    (s.script = [] ∧ nextItem s = (Config.freeItem s.draws, s.countDraw)) := by
  rcases h : s.script with _ | ⟨i, rest⟩ <;> simp [nextItem, h]

/-- What taking a turn leaves alone. -/
theorem nextTurn_same (s : State) :
    (nextTurn s).2.enc = s.enc ∧ (nextTurn s).2.dec = s.dec ∧ (nextTurn s).2.cmdIllegal = s.cmdIllegal ∧
    (nextTurn s).2.sinkLog = s.sinkLog ∧ (nextTurn s).2.srcRest = s.srcRest ∧
    (nextTurn s).2.sinkObj = s.sinkObj ∧ (nextTurn s).2.srcObj = s.srcObj ∧
    (nextTurn s).2.script = s.script ∧ (nextTurn s).2.faulted = s.faulted ∧
    (nextTurn s).2.encRemFaulted = s.encRemFaulted ∧ (nextTurn s).2.decAccFaulted = s.decAccFaulted := by
  rcases nextTurn_cases s with ⟨t, rest, -, h⟩ | ⟨-, h⟩ <;> simp [h]

/-- What taking a host action leaves alone. -/
theorem nextItem_same (s : State) :
    (nextItem s).2.enc = s.enc ∧ (nextItem s).2.dec = s.dec ∧ (nextItem s).2.cmdIllegal = s.cmdIllegal ∧
    (nextItem s).2.sinkLog = s.sinkLog ∧ (nextItem s).2.srcRest = s.srcRest ∧
    (nextItem s).2.sinkObj = s.sinkObj ∧ (nextItem s).2.srcObj = s.srcObj ∧
    (nextItem s).2.schedule = s.schedule ∧ (nextItem s).2.faulted = s.faulted ∧
    (nextItem s).2.encRemFaulted = s.encRemFaulted ∧ (nextItem s).2.decAccFaulted = s.decAccFaulted := by
  rcases nextItem_cases s with ⟨t, rest, -, h⟩ | ⟨-, h⟩ <;> simp [h]

/-- A host read of DEC_RESULT: in DONE it can only mark the run (R12; log 2), elsewhere it faults (R32). -/
theorem hostReadResult_cases (s : State) :
    (s.dec.state = .done ∧ hostReadResult s = .next s.noteDecAcc) ∨
    (s.dec.state ≠ .done ∧ hostReadResult s = .fault .resultNotValid) := by
  rcases readDecResult_cases s with ⟨hs, h⟩ | ⟨hs, h⟩ <;> simp [hostReadResult, h, hs]

/-- A host action runs the command it presents, reads the result, or changes at most the script (R55, R81, R90). -/
theorem hostAct_cases {i : HostItem} {s : State} {o : Outcome} (h : hostAct i s = o) :
    (∃ w, i = .present w ∧ o = exec (decode w) s) ∨
    ((i = .readResult ∨ i = .readResultIfDone) ∧ s.dec.state = .done ∧ o = .next s.noteDecAcc) ∨
    (i = .readResult ∧ s.dec.state ≠ .done ∧ o = .fault .resultNotValid) ∨
    ((∀ w, i ≠ .present w) ∧ ∃ l, o = .next (s.setScript l)) := by
  subst h
  have hpoll : ∀ c p, ∃ l, hostPoll c p s = .next (s.setScript l) := by
    intro c p
    cases c
    · exact ⟨_, rfl⟩
    · exact ⟨s.script, rfl⟩
  cases i with
  | present w => exact .inl ⟨w, rfl, rfl⟩
  | readStatus => exact .inr (.inr (.inr ⟨by simp, s.script, rfl⟩))
  | readResult =>
    rcases hostReadResult_cases s with ⟨hs, h⟩ | ⟨hs, h⟩
    · exact .inr (.inl ⟨.inl rfl, hs, h⟩)
    · exact .inr (.inr (.inl ⟨rfl, hs, h⟩))
  | readResultIfDone =>
    simp only [hostAct]
    split
    · next hd =>
      rcases hostReadResult_cases s with ⟨hs, h⟩ | ⟨hs, -⟩
      · exact .inr (.inl ⟨.inr trivial, hs, h⟩)
      · exact absurd ((decDone_iff s).1 hd) hs
    · exact .inr (.inr (.inr ⟨by simp, s.script, rfl⟩))
  | waitEnc => exact .inr (.inr (.inr ⟨by simp, hpoll _ _⟩))
  | waitDec => exact .inr (.inr (.inr ⟨by simp, hpoll _ _⟩))

/-- A step that goes on took one turn in a configuration of two distinct stream objects (R8, R62). -/
theorem step_cases {s t : State} (h : step s = .next t) :
    s.sinkObj ≠ s.srcObj ∧ runTurn (nextTurn s).1 (nextTurn s).2 = .next t := by
  unfold step advance at h
  split at h
  · cases h
  · next hd => exact ⟨hd, h⟩

/-- Everything a turn can do to the block and the streams (R8). -/
theorem runTurn_cases {u : Turn} {s t : State} (h : runTurn u s = .next t) :
    (u = .host ∧ hostAct (nextItem s).1 (nextItem s).2 = .next t) ∨
    (∃ a, u = .sink a ∧ encEmit a s = .next t) ∨
    (∃ m, u = .source m ∧ decRead m s = .next t) ∨
    (u = .reset ∧ t = s.resetBlock) ∨
    (∃ bs, u = .otherSink bs ∧ s.enc.state ≠ .emitting ∧ t = s.setSinkLog (s.sinkLog ++ bs)) ∨
    (∃ l, u = .otherSource l ∧ s.dec.state ≠ .accumulating ∧ t = s.setSrcRest l) := by
  cases u with
  | host => exact .inl ⟨rfl, h⟩
  | sink a => exact .inr (.inl ⟨a, rfl, h⟩)
  | source m => exact .inr (.inr (.inl ⟨m, rfl, h⟩))
  | reset => cases h; exact .inr (.inr (.inr (.inl ⟨rfl, rfl⟩)))
  | otherSink bs =>
    simp only [runTurn, otherSinkUse] at h
    split at h
    · cases h
    · next hn => cases h; exact .inr (.inr (.inr (.inr (.inl ⟨bs, rfl, hn, rfl⟩))))
  | otherSource l =>
    simp only [runTurn, otherSourceUse] at h
    split at h
    · cases h
    · next hn => cases h; exact .inr (.inr (.inr (.inr (.inr ⟨l, rfl, hn, rfl⟩))))

end Sys2Proof.Machine
end

