-- ==== Sys2Proof/Tests/Slice0.lean ====
section
/-! SUPPORT. Tests with expected results taken from spec/95_test_vectors.md and the rules' own examples (the vector's id
stands in the comment), a smoke test for each well-formedness check, and a witness for every statement's hypotheses. -/

namespace Sys2Proof.Tests

open Sys2Proof.Machine

/-! ## Small states and readings -/

/-- Reset with an encode call in progress. -/
def emitting (rem : Value) (count : BitVec 4) : State := { State.reset with enc := ⟨.emitting, .of rem, count⟩ }

/-- Reset with the encoder in some state, its last call of two bytes. -/
def encIn (st : EncState) : State := { State.reset with enc := ⟨st, .of 0, 2⟩ }

/-- Reset with a decode call in progress on a source holding `src`. -/
def reading (acc : Value) (shift : BitVec 7) (src : List Byte) : State :=
  { State.reset with dec := ⟨.accumulating, .of acc, shift, .none⟩, srcRest := src }

/-- Reset with the decoder in some state after two bytes of value 300. -/
def decIn (st : DecState) (err : DecErr) : State := { State.reset with dec := ⟨st, .of 300, 14, err⟩ }

/-- The state of an outcome that is a next state. -/
def nextOf (o : Outcome) : Option State :=
  match o with
  | .next s => some s
  | .fault _ => none
  | .refused _ => none

/-- STATUS after an outcome that is a next state. -/
def statusOf (o : Outcome) : Option (BitVec 32) := (nextOf o).map State.status

/-- The model fault of an outcome. -/
def faultOf (o : Outcome) : Option Fault :=
  match o with
  | .next _ => none
  | .fault f => some f
  | .refused _ => none

/-- A state with one turn placed. -/
def oneTurn (u : Turn) (s : State) : State := { s with schedule := [u] }

/-! ## Well-formedness: each check refuses an ill-formed term (R73, R80) -/

theorem test_wordFits_refuses : wordFits (2 ^ 67) = false ∧ wordFits (2 ^ 67 - 1) = true := by decide
theorem test_immFits_refuses_high : immFits (2 ^ 64) = false ∧ immFits (2 ^ 64 - 1) = true := by decide
theorem test_immFits_refuses_low : immFits (-(2 ^ 63) - 1) = false ∧ immFits (-(2 ^ 63)) = true := by decide
theorem test_opFits_refuses : opFits 8 = false ∧ opFits 7 = true := by decide
theorem test_wf_takes_every_value : (Instr.encStart 0xFFFFFFFFFFFFFFFF#64).wf = true := by decide

/-! ## Decoding: every constructor from a word written out from R73 and R74 (words of P1 to P6) -/

theorem test_decode_nop : decode 0x0FFFFFFFFFFFFFFFF#67 = .nop := by decide
theorem test_decode_encStart : decode 0x1000000000000012C#67 = .encStart 300 := by decide
theorem test_decode_encStart_minus_one : decode 0x1FFFFFFFFFFFFFFFF#67 = .encStart (u64Of (-1)) := by decide
theorem test_decode_encAck : decode 0x20000000000000000#67 = .encAck := by decide
theorem test_decode_reserved011 : decode 0x30000000000000000#67 = .reserved011 := by decide
theorem test_decode_reserved100 : decode 0x40000000000000000#67 = .reserved100 := by decide
theorem test_decode_decStart : decode 0x50000000000000000#67 = .decStart := by decide
theorem test_decode_decAck : decode 0x60000000000000000#67 = .decAck := by decide
theorem test_decode_reserved111 : decode 0x70000000000000000#67 = .reserved111 := by decide
theorem test_encode_encStart : encode (.encStart 300) = 0x1000000000000012C#67 := by decide
theorem test_table_word_rejects : decodeTableWord 72 (2 ^ 67) = none := by decide

/-! ## Commands (95_test_vectors.md §2.5, P1, P2, P6, P8) -/

-- R93 example: nothing changes.
theorem test_nop : nextOf (exec .nop (emitting 5 1)) = some (emitting 5 1) := rfl
-- P1 line 1.
theorem test_encStart : statusOf (exec (.encStart 300) State.reset) = some 0x00000001#32 := by decide
-- P8 line 2: STATUS 0x00020005, the remaining value still 1.
theorem test_encStart_busy : (nextOf (exec (.encStart 5) (emitting 1 1))).map (fun t => (t.status, t.enc.rem)) =
    some (0x00020005#32, .of 1#64) := by decide
-- P1 line 3: IDLE, count 2.
theorem test_encAck : statusOf (exec .encAck (encIn .done)) = some 0x00000008#32 := by decide
-- P5 line 3.
theorem test_encAck_failed : statusOf (exec .encAck (encIn .failed)) = some 0x00000008#32 := by decide
-- P2 line 1.
theorem test_decStart : statusOf (exec .decStart State.reset) = some 0x00000040#32 := by decide
-- §2.5: DEC.START with the encoder busy does not touch the encoder.
theorem test_decStart_encoder_busy : statusOf (exec .decStart (emitting 7 0)) = some 0x00000041#32 := by decide
-- P2 line 3: shift 14 held.
theorem test_decAck : statusOf (exec .decAck (decIn .done .none)) = some 0x00003800#32 := by decide
-- P6 line 1: sticky bit, and the spec's model faults.
theorem test_decAck_idle : statusOf (exec .decAck State.reset) = some 0x00020000#32 ∧
    faultOf (specOutcome (exec .decAck State.reset)) = some .cmdIllegal := by decide
-- P6 line 2 and R97.
theorem test_reserved011 : statusOf (exec .reserved011 State.reset) = some 0x00020000#32 := by decide
theorem test_reserved100 : statusOf (exec .reserved100 State.reset) = some 0x00020000#32 := by decide
theorem test_reserved111 : statusOf (exec .reserved111 State.reset) = some 0x00020000#32 ∧
    faultOf (specOutcome (exec .reserved111 State.reset)) = some .cmdIllegal := by decide

/-! ## Engine steps (§2.1, §2.3) -/

-- E-D1.
theorem test_emit_zero : (nextOf (encEmit .accept (emitting 0 0))).map (fun t => (t.sinkLog, t.enc.state)) =
    some ([0x00#8], .done) := by decide
-- E-D5 and P1: 0xAC, remaining value 2, count 1.
theorem test_emit_300 : (nextOf (encEmit .accept (emitting 300 0))).map (fun t => (t.sinkLog, t.enc.rem, t.status)) =
    some ([0xAC#8], .of 2#64, 0x00000005#32) := by decide
-- E-D8.
theorem test_emit_top_bit : (nextOf (encEmit .accept (emitting 0x8000000000000000#64 0))).map
    (fun t => (t.sinkLog, t.enc.rem, t.enc.state)) = some ([0x80#8], .of 0x0100000000000000#64, .emitting) := by decide
-- P5: REJECT with two bytes accepted.
theorem test_emit_reject : (nextOf (encEmit .reject (emitting 1 2))).map (fun t => (t.sinkLog, t.status)) =
    some ([], 0x0000000B#32) := by decide
-- D-D4.
theorem test_read_terminal : (nextOf (decRead .serve (reading 0x2C 7 [0x02, 0x05]))).map
    (fun t => (t.dec, t.srcRest)) = some (⟨.done, .of 0x12C#64, 14, .none⟩, [0x05#8]) := by decide
-- D-D6: bits [6:1] of the tenth byte are dropped.
theorem test_read_tenth : (nextOf (decRead .serve (reading 0x7FFFFFFFFFFFFFFF#64 63 [0x7F]))).map (fun t => t.dec) =
    some ⟨.done, .of 0xFFFFFFFFFFFFFFFF#64, 70, .none⟩ := by decide
-- D-D9 and P3: a terminal eleventh byte still overflows, and it is consumed.
theorem test_read_overflow : (nextOf (decRead .serve (reading 0xFFFFFFFFFFFFFFFF#64 70 [0x00, 0x2A]))).map
    (fun t => (t.status, t.srcRest)) = some (0x000119C0#32, [0x2A#8]) := by decide
-- D-D11 and P7: a failing source is STREAM even at shift 70.
theorem test_read_stream : statusOf (decRead .serve (reading 0xFFFFFFFFFFFFFFFF#64 70 [])) = some 0x00011AC0#32 := by
  decide
-- §2.6.
theorem test_reset : statusOf (runTurn .reset { emitting 5 1 with cmdIllegal := true }) = some 0x00000000#32 := by decide

/-! ## Whole codings (§2.2, §2.4) -/

-- E-W26.
theorem test_enc_pattern : encBytes 0x0123456789ABCDEF#64 =
    [0xEF, 0x9B, 0xAF, 0xCD, 0xF8, 0xAC, 0xD1, 0x91, 0x01] := by decide
-- E-W22.
theorem test_enc_nine : encBytes 0x7FFFFFFFFFFFFFFF#64 = List.replicate 8 0xFF ++ [0x7F] := by decide
-- D-W2.
theorem test_dec_300 : decBytes [0xAC, 0x02, 0x05] = .ok 300 2 := by decide
-- D-W13, D-W15.
theorem test_dec_overflow : decBytes (List.replicate 10 0x80 ++ [0x01]) = .overflow 11 := by decide
theorem test_dec_stream : decBytes (List.replicate 10 0xFF) = .stream 10 := by decide

/-! ## Ports, polls, assembler, instances -/

-- P2 line 2, and R32 outside DONE.
theorem test_result : (decIn .done .none).readDecResult = .ok 300 := rfl
theorem test_result_failed : (decIn .failed .stream).readDecResult = .error .resultNotValid := rfl
-- R81: a poll that is not over stands in the script again.
theorem test_wait : (nextOf (hostAct .waitEnc (emitting 5 1))).map (fun t => t.script) = some [.waitEnc] := by decide
-- R80, P4 line 1.
theorem test_assemble : (parseLine "ENC.START -1 ; all ones".toList).map (fun as => assembleAll as) =
    some (some [.present 0x1FFFFFFFFFFFFFFFF#67]) := by decide
-- P6 line 2.
theorem test_assemble_cmd : (parseLine ".cmd 0b111, 0".toList).map (fun as => assembleAll as) =
    some (some [.present 0x70000000000000000#67]) := by decide
theorem test_assemble_refuses : (parseLine "ENC.START 0x10000000000000000".toList).map (fun as => assembleAll as) =
    some none := by decide
-- A placed word is run by the next step (P1 line 1).
theorem test_placed : statusOf (step (State.reset.withFetchWord 72 0x1000000000000012C)) = some 0x00000001#32 := by
  decide

/-! ## Witnesses: for each statement, states and operands that meet its hypotheses, clause by clause -/

theorem witness_MatchMaskSelectsTheCommand :
    (0x0FFFFFFFFFFFFFFFF#67 &&& 0x70000000000000000#67 = 0x00000000000000000#67) ∧
    (0x1FFFFFFFFFFFFFFFF#67 &&& 0x70000000000000000#67 = 0x10000000000000000#67) ∧
    (0x20000000000000001#67 &&& 0x70000000000000000#67 = 0x20000000000000000#67) ∧
    (0x30000000000000001#67 &&& 0x70000000000000000#67 = 0x30000000000000000#67) ∧
    (0x40000000000000001#67 &&& 0x70000000000000000#67 = 0x40000000000000000#67) ∧
    (0x50000000000000001#67 &&& 0x70000000000000000#67 = 0x50000000000000000#67) ∧
    (0x60000000000000001#67 &&& 0x70000000000000000#67 = 0x60000000000000000#67) ∧
    (0x7FFFFFFFFFFFFFFFF#67 &&& 0x70000000000000000#67 = 0x70000000000000000#67) := by decide

theorem witness_IgnoredValueBitsChangeNothing : (0b000#3 ≠ 0b001#3) ∧ (0b111#3 ≠ 0b001#3) := by decide

theorem witness_DecodeAndEncodeAgree : (Instr.encStart 0#64).wf = true ∧ Instr.reserved111.wf = true := by decide

/-- A state in which the host is to present a word, with turns and actions behind it. -/
def presenting : State :=
  { State.reset with schedule := [.host, .reset], script := [.present 0x1000000000000012C#67, .waitEnc] }

theorem witness_StepRunsThePresentedCommand :
    presenting.sinkObj ≠ presenting.srcObj ∧ presenting.schedule = .host :: [.reset] ∧
    presenting.script = .present 0x1000000000000012C#67 :: [.waitEnc] := by decide

theorem witness_PlacedCommandWordRunsNext :
    State.reset.sinkObj ≠ State.reset.srcObj ∧ (0 : Nat) < 2 ^ 67 ∧ 2 ^ 67 - 1 < 2 ^ 67 := by decide

theorem witness_StepRunsTheTurn :
    State.reset.sinkObj ≠ State.reset.srcObj ∧ State.reset.schedule = [] ∧
    (oneTurn (.sink .reject) (emitting 5 0)).schedule = .sink .reject :: [] ∧
    (oneTurn (.source .fail) (reading 0 0 [])).schedule = .source .fail :: [] := by decide

theorem witness_EncStartBeginsACall : State.reset.enc.state = .idle ∧ (encIn .failed).enc.state ≠ .idle := by decide

theorem witness_EncAckEndsACall :
    (encIn .done).enc.state = .done ∧ (encIn .failed).enc.state = .failed ∧ State.reset.enc.state = .idle ∧
    (emitting 5 1).enc.state = .emitting := by decide

theorem witness_DecStartBeginsACall :
    State.reset.dec.state = .idle ∧ (decIn .done .none).dec.state ≠ .idle := by decide

theorem witness_DecAckEndsACall :
    (decIn .done .none).dec.state = .done ∧ (decIn .failed .stream).dec.state = .failed ∧
    State.reset.dec.state = .idle ∧ (reading 0 7 []).dec.state = .accumulating ∧
    ∃ t, exec .decAck (decIn .done .none) = .next t := ⟨rfl, rfl, rfl, rfl, _, rfl⟩

theorem witness_IllegalAt :
    State.reset.encRemFaulted = false ∧ State.reset.decAccFaulted = false ∧
    (∃ t, exec .reserved011 State.reset = .next t) ∧ (∃ t, exec (.encStart 5) (emitting 1 1) = .next t) :=
  ⟨rfl, rfl, ⟨_, rfl⟩, ⟨_, rfl⟩⟩

theorem witness_InadmissibleCommandsAreIgnored :
    admissible .encAck State.reset = false ∧ admissible .reserved100 (emitting 5 1) = false ∧
    (let s := oneTurn (.sink .accept) { emitting 5 1 with cmdIllegal := true }
     s.cmdIllegal = true ∧ (nextTurn s).1 ≠ .reset ∧ (nextOf (step s)).isSome = true) := by decide

theorem witness_ModelFaultExactlyAtInadmissibleCommands :
    State.reset.Safe ∧ (State.reset.withFetchWord 72 0x60000000000000000).Safe ∧
    (State.reset.withFetchWord 72 0x1000000000000012C).EncInv ∧ (State.reset.withFetchWord 72 0x1000000000000012C).DecInv ∧
    -- presented and inadmissible: DEC.ACK in IDLE (P6 line 1); presented and admissible: ENC.START 300 (P1 line 1)
    (nextOf (step (State.reset.withFetchWord 72 0x60000000000000000))).map (fun t => t.faulted) = some true ∧
    faultOf (specStep (State.reset.withFetchWord 72 0x60000000000000000)) = some .cmdIllegal ∧
    (nextOf (step (State.reset.withFetchWord 72 0x1000000000000012C))).map (fun t => t.faulted) = some false ∧
    (nextOf (specStep (State.reset.withFetchWord 72 0x1000000000000012C))).isSome = true ∧
    -- not the host's turn
    (nextOf (specStep (oneTurn (.sink .accept) (emitting 5 1)))).isSome = true := by decide

theorem witness_IllegalCommandsGoOnWithTheStickyBit :
    (encIn .done).enc.state ≠ .idle ∧ State.reset.enc.state = .idle ∧ (emitting 5 1).enc.state = .emitting ∧
    (decIn .failed .overflow).dec.state ≠ .idle ∧ State.reset.dec.state = .idle ∧
    (reading 0 0 []).dec.state = .accumulating := by decide

theorem witness_AdmissibilityTable :
    (∃ t, exec (.encStart 5) State.reset = .next t) ∧ State.reset.cmdIllegal = false ∧
    (emitting 5 1).enc.state = .emitting ∧ (∃ t, exec .encAck (emitting 5 1) = .next t) ∧
    (reading 0 7 []).dec.state = .accumulating ∧ (∃ t, exec .decAck (reading 0 7 []) = .next t) :=
  ⟨⟨_, rfl⟩, rfl, rfl, ⟨_, rfl⟩, rfl, ⟨_, rfl⟩⟩

theorem witness_CommandsAddressOneEngine :
    (∃ t, exec (.encStart 5) State.reset = .next t) ∧ (∃ t, exec (.encStart 5) (reading 0 7 []) = .next t) ∧
    (opOf (.encStart 5)).getLsbD 2 = false ∧ (reading 0 7 []).enc = State.reset.enc ∧
    (∃ t, exec .decStart State.reset = .next t) ∧ (∃ t, exec .decStart (emitting 5 1) = .next t) ∧
    (opOf .decStart).getLsbD 2 = true ∧ (emitting 5 1).dec = State.reset.dec :=
  ⟨⟨_, rfl⟩, ⟨_, rfl⟩, rfl, rfl, ⟨_, rfl⟩, ⟨_, rfl⟩, rfl, rfl⟩

theorem witness_CommandFrame :
    (∃ t, exec .decAck (decIn .done .none) = .next t) ∧ (∃ t, exec .encAck (encIn .failed) = .next t) :=
  ⟨⟨_, rfl⟩, ⟨_, rfl⟩⟩

theorem witness_EmitWritesOneByte :
    (emitting 127 9).enc.state = .emitting ∧ (emitting 127 9).enc.rem = .of 127#64 ∧
    (encIn .done).enc.state ≠ .emitting ∧ (nextOf (encEmit .accept (encIn .done))).isSome = true := by decide

theorem witness_SinkRejectionKeepsTheBytesAccepted :
    State.reset.enc.state = .idle ∧ 0 < encLength 0#64 ∧ 9 < encLength 0xFFFFFFFFFFFFFFFF#64 := by decide

theorem witness_EncodeCallAppendsEnc : State.reset.enc.state = .idle ∧ 1 < encLength 300#64 := by decide

/-- An encode call of 300 interleaved with a decode call. -/
def bothRunning : State := { emitting 300 0 with dec := ⟨.accumulating, .of 0, 0, .none⟩, srcRest := [0x05] }

theorem witness_EncodeCallUnderEveryInterleaving :
    bothRunning.enc = ⟨.emitting, .of 300#64, 0⟩ ∧
    (∀ u ∈ [Turn.sink .accept, .source .serve, .sink .accept], u = .sink .accept ∨ ∃ m, u = .source m) ∧
    encLength 300#64 ≤ [Turn.sink .accept, .source .serve, .sink .accept].count (.sink .accept) ∧
    ∃ t, runTurns [.sink .accept, .source .serve, .sink .accept] bothRunning = .next t := by
  refine ⟨rfl, ?_, by decide, _, rfl⟩
  intro u hu
  simp only [List.mem_cons, List.not_mem_nil, or_false] at hu
  rcases hu with rfl | rfl | rfl
  · exact .inl rfl
  · exact .inr ⟨.serve, rfl⟩
  · exact .inl rfl

theorem witness_EncodedLengthTable :
    encLength 0x7F#64 ≤ 1 ∧ ¬ encLength 0x80#64 ≤ 1 ∧ encLength 0x7FFFFFFFFFFFFFFF#64 ≤ 9 ∧
    ¬ encLength 0x8000000000000000#64 ≤ 9 := by decide

theorem witness_ContinuationBitOfEveryByte :
    (encBytes 300#64)[0]? = some 0xAC#8 ∧ (encBytes 300#64)[1]? = some 0x02#8 := by decide

theorem witness_TenthByteIsOne : encLength 0x8000000000000000#64 = 10 := by decide

theorem witness_ReadProcessesOneByte :
    (reading 3 63 [0x80]).dec.state = .accumulating ∧ (reading 3 63 [0x80]).srcRest = 0x80#8 :: [] ∧
    (reading 3 63 [0x80]).dec.shift.toNat < 64 ∧ (reading 3 63 [0x80]).dec.acc = .of 3#64 ∧
    64 ≤ (reading 3 64 [0x80]).dec.shift.toNat ∧ (reading 3 64 []).srcRest = [] ∧
    (decIn .idle .none).dec.state ≠ .accumulating ∧ (nextOf (decRead .fail (decIn .idle .none))).isSome = true := by
  decide

theorem witness_ReadComesBeforeTheOverflowCheck :
    (reading 3 70 [0x80]).dec.state = .accumulating ∧ 64 ≤ (reading 3 64 []).dec.shift.toNat ∧
    (nextOf (decRead .serve (reading 3 70 [0x80]))).map (fun t => t.dec.err) = some .overflow ∧
    (nextOf (decRead .fail (reading 3 70 [0x80]))).map (fun t => t.dec.err) = some .stream ∧
    (reading 3 70 [0x80]).srcRest ≠ [] ∧ (reading 3 70 []).srcRest = [] := by decide

theorem witness_TenthByteTruncation :
    (reading 3 63 [0x7F]).dec.state = .accumulating ∧ (reading 3 63 [0x7F]).dec.shift = 63 ∧
    (reading 3 63 [0x7F]).dec.acc = .of 3#64 ∧ (reading 3 63 [0x7F]).srcRest = 0x7F#8 :: [] := by decide

theorem witness_CombinerAddsDisjointGroups :
    (57#7).toNat ≤ 57 ∧ (0x01FFFFFFFFFFFFFF#64).toNat < 2 ^ (57#7).toNat ∧ (0#64).toNat < 2 ^ (0#7).toNat := by decide

theorem witness_DecodeCallComputesDec :
    State.reset.dec.state = .idle ∧ decBytes [0xAC, 0x02, 0x05] = .ok 300 2 ∧
    decBytes (List.replicate 11 0xFF) = .overflow 11 ∧ decBytes [] = .stream 0 := by decide

theorem witness_MinimalLength_NoLookahead : decBytes [0x80, 0x00] = .ok 0 2 := by decide

theorem witness_CanonicalForm :
    decBytes [0x00] = .ok 0 1 ∧ decBytes [0x80, 0x01] = .ok 128 2 ∧
    decBytes (List.replicate 8 0xFF ++ [0x7F]) = .ok 0x7FFFFFFFFFFFFFFF#64 9 ∧
    decBytes (List.replicate 9 0xFF ++ [0x01]) = .ok 0xFFFFFFFFFFFFFFFF#64 10 ∧
    decBytes (List.replicate 9 0xFF ++ [0x02]) = .ok 0x7FFFFFFFFFFFFFFF#64 10 := by decide

theorem witness_ReencodingADecodedEncoding : decBytes (encBytes 300#64) = .ok 300 2 := by decide

theorem witness_CallsEndWithinTheirStepBound :
    (emitting 0xFFFFFFFFFFFFFFFF#64 0).EncInv ∧ (emitting 0xFFFFFFFFFFFFFFFF#64 0).enc.state = .emitting ∧
    (List.replicate 10 SinkAnswer.accept).length = 10 ∧ (emitting 1 9).EncInv ∧
    (reading 0 0 []).DecInv ∧ (reading 0 70 []).DecInv ∧ (reading 0 0 []).dec.state = .accumulating ∧
    (List.replicate 11 SourceMove.serve).length = 11 := by decide

theorem witness_EngineStepFrame :
    (∃ t, encEmit .reject (emitting 5 0) = .next t) ∧ (∃ t, encEmit .accept (emitting 5 0) = .next t) ∧
    (∃ t, decRead .serve (reading 0 0 [0x05]) = .next t) ∧ (∃ t, decRead .fail (reading 0 0 [0x05]) = .next t) ∧
    (emitting 5 0).enc.rem.held = true ∧ (reading 0 0 [0x05]).dec.acc.held = true ∧
    (encIn .done).enc.state ≠ .emitting ∧ (decIn .idle .none).dec.state ≠ .accumulating :=
  ⟨⟨_, rfl⟩, ⟨_, rfl⟩, ⟨_, rfl⟩, ⟨_, rfl⟩, rfl, rfl, by decide, by decide⟩

theorem witness_EngineStepsCommute : ∃ t, andThen (encEmit .accept bothRunning) (decRead .serve) = .next t := ⟨_, rfl⟩

theorem witness_OnlyTheStreamOrResetLeavesABusyEngine :
    (∃ t, step (oneTurn (.sink .accept) bothRunning) = .next t) ∧ bothRunning.enc.state = .emitting ∧
    bothRunning.dec.state = .accumulating ∧ (∃ t, step (oneTurn .reset bothRunning) = .next t) :=
  ⟨⟨_, rfl⟩, rfl, rfl, ⟨_, rfl⟩⟩

theorem witness_EndedCallsLeaveOnlyToIdle :
    (∃ t, step ((encIn .done).withFetchWord 72 0x20000000000000000) = .next t) ∧ (encIn .done).enc.state = .done ∧
    (∃ t, step ((decIn .failed .stream).withFetchWord 72 0x60000000000000000) = .next t) ∧
    (decIn .failed .stream).dec.state = .failed := by
  refine ⟨?_, rfl, ?_, rfl⟩ <;>
  · unfold State.withFetchWord placeCommand
    rw [if_pos (by decide)]
    exact ⟨_, rfl⟩

theorem witness_BlockStepsMoveAtMostOneStreamByte :
    (nextOf (step (oneTurn (.sink .accept) (emitting 300 0)))).map (fun t => t.sinkLog) = some [0xAC#8] ∧
    (nextOf (step (oneTurn (.source .serve) (reading 0 0 [0x05, 0x06])))).map (fun t => t.srcRest) = some [0x06#8] ∧
    (nextOf (step (oneTurn (.otherSink [0x07, 0x08]) State.reset))).map (fun t => t.sinkLog) = some [0x07#8, 0x08#8] ∧
    (nextOf (step (oneTurn (.otherSource [0x09, 0x0A]) State.reset))).map (fun t => t.srcRest) =
      some [0x09#8, 0x0A#8] := by decide

theorem witness_StepKeepsEncoderInvariant :
    (oneTurn (.sink .accept) (emitting 1 9)).EncInv ∧
    (nextOf (step (oneTurn (.sink .accept) (emitting 1 9)))).isSome = true := by decide

theorem witness_StepKeepsDecoderInvariant :
    (oneTurn (.source .serve) (reading 0x7FFFFFFFFFFFFFFF#64 63 [0x81])).DecInv ∧
    (nextOf (step (oneTurn (.source .serve) (reading 0x7FFFFFFFFFFFFFFF#64 63 [0x81])))).isSome = true := by decide

/-- Reset with the host about to read DEC_RESULT. -/
def readingResult : State := { State.reset with schedule := [.host], script := [.readResult] }

theorem witness_TheOnlyStops :
    readingResult.EncInv ∧ readingResult.DecInv ∧ faultOf (step readingResult) = some .resultNotValid ∧
    step { State.reset with srcObj := 0 } = .refused .sharedStream ∧
    step (oneTurn (.otherSink []) (emitting 5 0)) = .refused .streamInUse ∧
    (oneTurn (.otherSink []) (emitting 5 0)).EncInv ∧ (oneTurn (.otherSink []) (emitting 5 0)).DecInv ∧
    step (oneTurn (.otherSource []) (reading 0 7 [])) = .refused .streamInUse ∧
    (oneTurn (.otherSource []) (reading 0 7 [])).EncInv ∧ (oneTurn (.otherSource []) (reading 0 7 [])).DecInv :=
  ⟨by decide, by decide, by decide, rfl, rfl, by decide, by decide, rfl, by decide, by decide⟩

/-- A busy encoder and decoder whose registers hold no value: a state no run from reset reaches. -/
def unheld : State :=
  { State.reset with enc := ⟨.emitting, .none 300, 0⟩, dec := ⟨.accumulating, .none 3, 7, .none⟩, srcRest := [0x05] }

-- R12, D28: the spec's model faults, the hardware goes on with the bits.
theorem test_unheld_emit : (nextOf (encEmit .accept unheld)).map (fun t => (t.sinkLog, t.encRemFaulted)) =
    some ([0xAC#8], true) ∧ faultOf (specOutcome (encEmit .accept unheld)) = some .encRemNotHeld := by decide
theorem test_unheld_read : (nextOf (decRead .serve unheld)).map (fun t => (t.dec.acc, t.decAccFaulted)) =
    some (.of 0x283#64, true) ∧ faultOf (specOutcome (decRead .serve unheld)) = some .decAccNotHeld := by decide

theorem witness_ReadingAnUnheldRegister :
    unheld.enc.state = .emitting ∧ unheld.enc.rem.held = false ∧ unheld.Safe ∧
    unheld.dec.state = .accumulating ∧ unheld.dec.acc.held = false ∧ unheld.srcRest = 0x05#8 :: [] ∧
    unheld.dec.shift.toNat < 64 ∧
    (let s : State := { State.reset with dec := ⟨.done, .none 3, 7, .none⟩ }
     s.dec.state = .done ∧ s.dec.acc.held = false ∧ s.Safe) ∧
    (let s : State := oneTurn .reset { unheld with encRemFaulted := true, decAccFaulted := true }
     s.encRemFaulted = true ∧ s.decAccFaulted = true ∧ (nextOf (step s)).isSome = true) := by decide

-- Every pattern of the marks has its fault (log 22).
theorem witness_marks :
    faultOf (specStep { State.reset with faulted := true, encRemFaulted := true }) = some .cmdIllegal ∧
    faultOf (specStep { State.reset with encRemFaulted := true, decAccFaulted := true }) = some .encRemNotHeld ∧
    faultOf (specStep { State.reset with decAccFaulted := true }) = some .decAccNotHeld := by decide

/-- A run in which a command was illegal. -/
def afterIllegal : State := { State.reset with cmdIllegal := true, faulted := true }

theorem witness_ResetFromAnyState : ∃ t, runTurn .reset afterIllegal = .next t := ⟨_, rfl⟩

theorem witness_IllegalMarksAreSticky :
    (∃ t, step (oneTurn .reset afterIllegal) = .next t) ∧ afterIllegal.cmdIllegal = true ∧
    afterIllegal.faulted = true ∧ afterIllegal.encRemFaulted = false ∧ afterIllegal.decAccFaulted = false ∧
    faultOf (specStep (oneTurn .reset afterIllegal)) = some .cmdIllegal ∧
    (nextTurn (oneTurn .reset afterIllegal)).1 = .reset := ⟨⟨_, rfl⟩, rfl, rfl, rfl, rfl, rfl, rfl⟩

theorem witness_StatusWordLayout : (emitting 1 9).EncInv ∧ (reading 0 70 []).DecInv := by decide

theorem witness_ResultWindow :
    (decIn .done .none).dec.state = .done ∧ (decIn .done .none).dec.acc = .of 300#64 ∧
    (decIn .failed .overflow).dec.state ≠ .done := by decide

theorem witness_SharedStreamsAreRefused :
    ({ State.reset with srcObj := 0 } : State).sinkObj = ({ State.reset with srcObj := 0 } : State).srcObj ∧
    (emitting 5 0).enc.state = .emitting ∧ (reading 0 0 []).dec.state = .accumulating ∧
    ¬ (boundObjects [State.reset, State.reset]).Nodup := by decide

/-- Two instances on four stream objects, the first about to be reset. -/
def twoInstances : List State := [oneTurn .reset (emitting 5 0), { State.reset with sinkObj := 2, srcObj := 3 }]

theorem witness_InstancesShareNothing :
    (∃ z, systemStep 0 twoInstances = .next z) ∧ (1 : Nat) ≠ 0 ∧
    twoInstances[0]? = some (oneTurn .reset (emitting 5 0)) := by
  refine ⟨?_, by decide, rfl⟩
  unfold systemStep
  rw [if_pos (by decide)]
  exact ⟨_, rfl⟩

theorem witness_PollsAndPseudoInstructions :
    assemble (.encStart 300) = some [.present 0x1000000000000012C#67] := by decide

theorem witness_AssemblerImmediateRange :
    (-(2 ^ 63) : Int) ≤ -(2 ^ 63) ∧ (2 ^ 64 - 1 : Int) < 2 ^ 64 ∧ (-(2 ^ 63) - 1 : Int) < -(2 ^ 63) ∧
    (2 ^ 64 : Int) ≤ 2 ^ 64 := by decide

theorem witness_SignedReadingsAgree :
    (-(2 ^ 63) : Int) ≤ -(2 ^ 63) ∧ (2 ^ 63 - 1 : Int) < 2 ^ 63 ∧ (0 : Int) ≤ 2 ^ 64 - 1 ∧
    (2 ^ 64 - 1 : Int) < 2 ^ 64 := by decide

end Sys2Proof.Tests
end

section
/-! SUPPORT. Proofs of the scope statements (00_scope.md): O24, O49, O58, O59, O5, O60. -/

namespace Sys2Proof.Machine

/-! ## Readings of a 64-bit pattern (R11) -/

/-- The host's pattern of an integer is the integer mod 2^64 (R11, R103). -/
theorem u64Of_eq_ofInt (s : Int) : u64Of s = BitVec.ofInt 64 s := by
  apply BitVec.eq_of_toNat_eq
  rw [u64Of, BitVec.toNat_ofNat, BitVec.toNat_ofInt]
  omega

/-- The signed reading is the two's-complement reading (R11, R145). -/
theorem signed64_eq_toInt (x : Value) : signed64 x = x.toInt := by
  rw [BitVec.toInt_eq_msb_cond, BitVec.msb_eq_getLsbD_last]
  rfl

/-- Settles O59: the signed reading is `BitVec.toInt`, the host's pattern `BitVec.ofInt`, and these are inverse on
the 64-bit range. -/
theorem signedReadingsAgree : Obligations.SignedReadingsAgree := by
  refine ⟨fun x => ?_, fun s => ⟨fun hlo hhi => ?_, fun hlo hhi => ?_⟩⟩
  · rw [signed64_eq_toInt, u64Of_eq_ofInt]
    exact ⟨BitVec.le_toInt x, BitVec.toInt_lt, BitVec.ofInt_toInt,
      by rw [← BitVec.msb_eq_getLsbD_last (x := x), BitVec.msb_eq_toInt, decide_eq_true_iff]⟩
  · rw [signed64_eq_toInt, u64Of_eq_ofInt, BitVec.toInt_ofInt_eq_self (by decide) hlo hhi]
  · rw [u64Of_eq_ofInt, BitVec.toNat_ofInt]
    omega

/-! ## The assembler's immediates (R80) -/

/-- An immediate is taken exactly where 64 bits represent it (R80). -/
theorem immFits_iff (imm : Int) : immFits imm = true ↔ -(2 ^ 63) ≤ imm ∧ imm < 2 ^ 64 := by
  simp [immFits]

/-- Outside the range of R80 an immediate does not fit. -/
theorem immFits_eq_false {imm : Int} (h : imm < -(2 ^ 63) ∨ 2 ^ 64 ≤ imm) : immFits imm = false := by
  rw [← Bool.not_eq_true, immFits_iff]
  omega

/-- Every three-bit op code may stand in a `.cmd` line (R80; log 13). -/
theorem opFits_toNat (op : BitVec 3) : opFits op.toNat = true := decide_eq_true op.isLt

/-- ENC.START assembles to its op code over the immediate mod 2^64 (R80, R103). -/
theorem assembleStart_of_immFits {imm : Int} (h : immFits imm = true) :
    assembleStart imm = some (.present (0b001#3 ++ BitVec.ofInt 64 imm : CmdWord)) := by
  rw [assembleStart, if_pos h, u64Of_eq_ofInt]
  rfl

/-- A `.cmd` line assembles to its op code over the immediate mod 2^64 (R80). -/
theorem assembleCmd_of_immFits {imm : Int} (op : BitVec 3) (h : immFits imm = true) :
    assembleCmd op.toNat imm = some (.present (op ++ BitVec.ofInt 64 imm : CmdWord)) := by
  rw [assembleCmd, opFits_toNat, h, u64Of_eq_ofInt, BitVec.ofNat_toNat, BitVec.setWidth_eq]
  rfl

/-- Settles O58: the range of R80 is `immFits`, and each line's assembler is decided by it. -/
theorem assemblerImmediateRange : Obligations.AssemblerImmediateRange := by
  refine fun imm => ⟨fun h => ?_, fun h => ?_⟩
  · have hfit := (immFits_iff imm).2 h
    simp [assemble, assembleStart_of_immFits hfit, assembleCmd_of_immFits _ hfit]
  · have hfit := immFits_eq_false h
    simp [assemble, assembleStart, assembleCmd, hfit]

/-! ## The presented command (R8, R90) -/

/-- A step with distinct streams runs its turn in the state after the turn was taken (R8). -/
theorem step_of_distinct {s : State} (h : s.sinkObj ≠ s.srcObj) : step s = runTurn (nextTurn s).1 (nextTurn s).2 := by
  rw [step, advance, if_neg h]

/-- The first turn placed is the next one (R8; log 3). -/
theorem nextTurn_of_schedule {s : State} {u : Turn} {us : List Turn} (h : s.schedule = u :: us) :
    nextTurn s = (u, s.setSchedule us) := by
  simp [nextTurn, h]

/-- The first action of the script is the host's next one (R80; log 3). -/
theorem nextItem_of_script {s : State} {i : HostItem} {is : List HostItem} (h : s.script = i :: is) :
    nextItem s = (i, s.setScript is) := by
  simp [nextItem, h]

/-- Settles O5: the turn taken is the host's, the action taken presents `w`. -/
theorem stepRunsThePresentedCommand : Obligations.StepRunsThePresentedCommand := by
  intro s w turns items hobj hsched hscript
  have hitem : nextItem (s.setSchedule turns) = (.present w, (s.setSchedule turns).setScript items) :=
    nextItem_of_script hscript
  rw [step_of_distinct hobj, nextTurn_of_schedule hsched, runTurn, hitem]
  rfl

/-! ## The stops of a step (R12, R32, R62, R206, R207) -/

/-- A turn goes on, or the host reads DEC_RESULT outside DONE, or another user touches the stream of a busy engine (R32,
R62, R206, R207). -/
theorem runTurn_stops (u : Turn) (s : State) :
    (∃ t, runTurn u s = .next t) ∨
    (runTurn u s = .fault .resultNotValid ∧ s.dec.state ≠ .done ∧ u = .host ∧ (nextItem s).1 = .readResult) ∨
    (runTurn u s = .refused .streamInUse ∧
      (s.enc.state = .emitting ∧ (∃ bs, u = .otherSink bs) ∨
        s.dec.state = .accumulating ∧ ∃ rest, u = .otherSource rest)) := by
  cases u with
  | host =>
    have hdec : (nextItem s).2.dec = s.dec := (nextItem_same s).2.1
    rcases hostAct_cases (i := (nextItem s).1) (s := (nextItem s).2) rfl with
      ⟨w, -, ho⟩ | ⟨-, -, ho⟩ | ⟨hi, hs, ho⟩ | ⟨-, l, ho⟩
    · obtain ⟨t, ht⟩ := exec_next (decode w) (nextItem s).2
      exact .inl ⟨t, ho.trans ht⟩
    · exact .inl ⟨_, ho⟩
    · exact .inr (.inl ⟨ho, hdec ▸ hs, rfl, hi⟩)
    · exact .inl ⟨_, ho⟩
  | sink a => exact .inl (encEmit_next a s)
  | source m => exact .inl (decRead_next m s)
  | reset => exact .inl ⟨_, rfl⟩
  | otherSink bs =>
    by_cases hs : s.enc.state = .emitting
    · exact .inr (.inr ⟨if_pos hs, .inl ⟨hs, bs, rfl⟩⟩)
    · exact .inl ⟨_, if_neg hs⟩
  | otherSource rest =>
    by_cases hs : s.dec.state = .accumulating
    · exact .inr (.inr ⟨if_pos hs, .inr ⟨hs, rest, rfl⟩⟩)
    · exact .inl ⟨_, if_neg hs⟩

/-- A step goes on, or stops as its turn does, or finds one object bound to both engines (R8, R62; log 17). -/
theorem step_stops (s : State) :
    (∃ t, step s = .next t) ∨
    (step s = .fault .resultNotValid ∧ s.dec.state ≠ .done ∧ (nextTurn s).1 = .host ∧
      (nextItem (nextTurn s).2).1 = .readResult) ∨
    (step s = .refused .streamInUse ∧
      (s.enc.state = .emitting ∧ (∃ bs, (nextTurn s).1 = .otherSink bs) ∨
        s.dec.state = .accumulating ∧ ∃ rest, (nextTurn s).1 = .otherSource rest)) ∨
    (step s = .refused .sharedStream ∧ s.sinkObj = s.srcObj) := by
  by_cases hobj : s.sinkObj = s.srcObj
  · exact .inr (.inr (.inr ⟨if_pos hobj, hobj⟩))
  · obtain ⟨henc, hdec, -⟩ := nextTurn_same s
    rw [step_of_distinct hobj]
    rcases runTurn_stops (nextTurn s).1 (nextTurn s).2 with h | h | h
    · exact .inl h
    · exact .inr (.inl (hdec ▸ h))
    · exact .inr (.inr (.inl (henc ▸ hdec ▸ h)))

/-! ## The marks of reads of a register that holds no value (R12; log 2) -/

/-- A command touches neither the streams nor the host's and the schedule's record nor the marks of log 2 (R92, R94). -/
theorem exec_sameOutside {i : Instr} {s t : State} (h : exec i s = .next t) : s.SameOutside t := by
  rw [exec_eq_accept] at h
  rcases accept_cases h with ⟨-, ho⟩ | ⟨-, ho⟩ <;> cases ho
  · cases i <;> simp [State.SameOutside]
  · simp [State.SameOutside]

/-- A turn marks a read of `enc_rem` at most in EMITTING, and there only if the register holds no value (R12, R107). -/
theorem runTurn_encRemFaulted {u : Turn} {s t : State} (h : runTurn u s = .next t) :
    t.encRemFaulted = s.encRemFaulted ∨
    (s.enc.state = .emitting ∧ t.encRemFaulted = (s.encRemFaulted || !s.enc.rem.held)) := by
  rcases runTurn_cases h with ⟨-, h⟩ | ⟨a, -, h⟩ | ⟨m, -, h⟩ | ⟨-, rfl⟩ | ⟨bs, -, -, rfl⟩ | ⟨l, -, -, rfl⟩
  · left
    obtain ⟨-, -, -, -, -, -, -, -, -, hmark, -⟩ := nextItem_same s
    rcases hostAct_cases h with ⟨w, -, ho⟩ | ⟨-, -, ho⟩ | ⟨-, -, ho⟩ | ⟨-, l, ho⟩
    · obtain ⟨-, -, -, -, -, -, -, hexec, -⟩ := exec_sameOutside ho.symm
      exact hexec.trans hmark
    · cases ho
      exact hmark
    · cases ho
    · cases ho
      exact hmark
  · rcases encEmit_cases h with ⟨-, rfl⟩ | ⟨hs, -, rfl⟩ | ⟨hs, -, rfl⟩
    · exact .inl rfl
    · exact .inr ⟨hs, rfl⟩
    · exact .inr ⟨hs, rfl⟩
  · left
    rcases decRead_cases h with ⟨-, rfl⟩ | ⟨-, -, rfl⟩ | ⟨b, rest, -, -, -, ⟨-, rfl⟩ | ⟨-, rfl⟩⟩ <;> rfl
  all_goals exact .inl rfl

/-- A turn marks a read of `dec_acc` at most in ACCUMULATING and DONE, and there only if the register holds no value
(R12, R32, R137). -/
theorem runTurn_decAccFaulted {u : Turn} {s t : State} (h : runTurn u s = .next t) :
    t.decAccFaulted = s.decAccFaulted ∨
    ((s.dec.state = .accumulating ∨ s.dec.state = .done) ∧
      t.decAccFaulted = (s.decAccFaulted || !s.dec.acc.held)) := by
  rcases runTurn_cases h with ⟨-, h⟩ | ⟨a, -, h⟩ | ⟨m, -, h⟩ | ⟨-, rfl⟩ | ⟨bs, -, -, rfl⟩ | ⟨l, -, -, rfl⟩
  · obtain ⟨-, hdec, -, -, -, -, -, -, -, -, hmark⟩ := nextItem_same s
    rcases hostAct_cases h with ⟨w, -, ho⟩ | ⟨-, hs, ho⟩ | ⟨-, -, ho⟩ | ⟨-, l, ho⟩
    · obtain ⟨-, -, -, -, -, -, -, -, hexec⟩ := exec_sameOutside ho.symm
      exact .inl (hexec.trans hmark)
    · cases ho
      exact .inr ⟨.inr (hdec ▸ hs), by rw [State.noteDecAcc_decAccFaulted, hdec, hmark]⟩
    · cases ho
    · cases ho
      exact .inl hmark
  · left
    rcases encEmit_cases h with ⟨-, rfl⟩ | ⟨-, -, rfl⟩ | ⟨-, -, rfl⟩ <;> rfl
  · rcases decRead_cases h with ⟨-, rfl⟩ | ⟨-, -, rfl⟩ | ⟨b, rest, hs, -, -, ⟨-, rfl⟩ | ⟨-, rfl⟩⟩
    · exact .inl rfl
    · exact .inl rfl
    · exact .inl rfl
    · exact .inr ⟨.inl hs, rfl⟩
  all_goals exact .inl rfl

/-- What a step does to the mark of `enc_rem` reads (R12; log 2). -/
theorem step_encRemFaulted {s t : State} (h : step s = .next t) :
    t.encRemFaulted = s.encRemFaulted ∨
    (s.enc.state = .emitting ∧ t.encRemFaulted = (s.encRemFaulted || !s.enc.rem.held)) := by
  obtain ⟨henc, -, -, -, -, -, -, -, -, hmark, -⟩ := nextTurn_same s
  have hturn := runTurn_encRemFaulted (step_cases h).2
  rwa [henc, hmark] at hturn

/-- What a step does to the mark of `dec_acc` reads (R12; log 2). -/
theorem step_decAccFaulted {s t : State} (h : step s = .next t) :
    t.decAccFaulted = s.decAccFaulted ∨
    ((s.dec.state = .accumulating ∨ s.dec.state = .done) ∧
      t.decAccFaulted = (s.decAccFaulted || !s.dec.acc.held)) := by
  obtain ⟨-, hdec, -, -, -, -, -, -, -, -, hmark⟩ := nextTurn_same s
  have hturn := runTurn_decAccFaulted (step_cases h).2
  rwa [hdec, hmark] at hturn

/-- Within the encoder's invariants no step reads an `enc_rem` that holds no value (R12, R35). -/
theorem step_keeps_encRemFaulted {s t : State} (hinv : s.EncInv) (h : step s = .next t) :
    t.encRemFaulted = s.encRemFaulted := by
  rcases step_encRemFaulted h with hmark | ⟨hs, hmark⟩
  · exact hmark
  · obtain ⟨-, hemit, -⟩ := hinv
    obtain ⟨-, hheld, -⟩ := hemit hs
    simp [hmark, hheld]

/-- Within the decoder's invariants no step reads a `dec_acc` that holds no value (R12, R36). -/
theorem step_keeps_decAccFaulted {s t : State} (hinv : s.DecInv) (h : step s = .next t) :
    t.decAccFaulted = s.decAccFaulted := by
  rcases step_decAccFaulted h with hmark | ⟨hs, hmark⟩
  · exact hmark
  · obtain ⟨-, -, hacc, hdone, -⟩ := hinv
    have hheld : s.dec.acc.held = true := hs.elim (fun hs => (hacc hs).1) fun hs => (hdone hs).2
    simp [hmark, hheld]

/-- Settles O49: everything that stops a step is in `step_stops`, and the invariants hold the register wherever a
step reads it. -/
theorem theOnlyStops : Obligations.TheOnlyStops := by
  refine fun s => ⟨fun f hf => ?_, fun r hr => ?_, fun henc hdec t ht =>
    ⟨step_keeps_encRemFaulted henc ht, step_keeps_decAccFaulted hdec ht⟩⟩
  · rcases step_stops s with ⟨t, h⟩ | ⟨h, hwhy⟩ | ⟨h, -⟩ | ⟨h, -⟩ <;> rw [h] at hf <;> cases hf
    exact ⟨rfl, hwhy⟩
  · rcases step_stops s with ⟨t, h⟩ | ⟨h, -⟩ | ⟨h, hwhy⟩ | ⟨h, hobj⟩ <;> rw [h] at hr <;> cases hr
    · exact .inr (hwhy.imp (⟨rfl, ·⟩) (⟨rfl, ·⟩))
    · exact .inl ⟨rfl, hobj⟩

/-! ## Reading a register that holds no value (R12, V1, D28) -/

/-- A run that carries the mark of `enc_rem` and not that of CmdIllegal is at the fault encRemNotHeld (R12; log 22). -/
theorem specFault_encRemNotHeld {s : State} (hf : s.faulted = false) (he : s.encRemFaulted = true) :
    s.specFault = some .encRemNotHeld := by
  simp [State.specFault, hf, he]

/-- A run that carries only the mark of `dec_acc` is at the fault decAccNotHeld (R12; log 22). -/
theorem specFault_decAccNotHeld {s : State} (hf : s.faulted = false) (he : s.encRemFaulted = false)
    (hd : s.decAccFaulted = true) : s.specFault = some .decAccNotHeld := by
  simp [State.specFault, hf, he, hd]

/-- The spec's model stops at the fault of the state the hardware goes on to (R12, R175). -/
theorem specOutcome_of_specFault {t : State} {f : Fault} (h : t.specFault = some f) :
    specOutcome (.next t) = .fault f := by
  simp [specOutcome, h]

/-- A run at a fault of the spec's model stays there (R203; log 22). -/
theorem specStep_of_specFault {s : State} {f : Fault} (h : s.specFault = some f) : specStep s = .fault f := by
  simp [specStep, h]

/-- Reading an `enc_rem` that holds no value marks the run (R12; log 2). -/
theorem State.noteEncRem_of_not_held {s : State} (h : s.enc.rem.held = false) :
    s.noteEncRem = { s with encRemFaulted := true } := by
  simp [State.noteEncRem, h]

/-- Reading a `dec_acc` that holds no value marks the run (R12; log 2). -/
theorem State.noteDecAcc_of_not_held {s : State} (h : s.dec.acc.held = false) :
    s.noteDecAcc = { s with decAccFaulted := true } := by
  simp [State.noteDecAcc, h]

/-- An ENC.EMIT in EMITTING is the offer of one byte, after the read of `enc_rem` (R107). -/
theorem encEmit_of_emitting {s : State} (h : s.enc.state = .emitting) (a : SinkAnswer) :
    encEmit a s = .next (encOffer s.enc.rem.bits a s.noteEncRem) := by
  simp [encEmit, h]

/-- An accepted offer, written out (R101 to R105, R107). -/
theorem encOffer_accept (r : Value) (s : State) :
    encOffer r .accept s = { s with
      enc := { state := if r >>> 7 = 0 then .done else .emitting, rem := .of (r >>> 7), count := s.enc.count + 1 }
      sinkLog := s.sinkLog ++ [(if r >>> 7 = 0 then 0#1 else 1#1) ++ r.extractLsb' 0 7] } := by
  simp [encOffer, sinkWrite, emitByte, contMux, encGroup, EncEngine.afterAccept, isLast, remNext, State.setSinkLog,
    State.setEnc]

/-- A rejected offer, written out (R109). -/
theorem encOffer_reject (r : Value) (s : State) :
    encOffer r .reject s = { s with enc := { s.enc with state := .failed } } := rfl

/-- The sink's answer to an offer does not touch the run's marks (R107, R109). -/
theorem encOffer_marks (r : Value) (a : SinkAnswer) (s : State) :
    (encOffer r a s).faulted = s.faulted ∧ (encOffer r a s).encRemFaulted = s.encRemFaulted := by
  cases a <;> exact ⟨rfl, rfl⟩

/-- A byte read below the shift limit is combined into the accumulator, written out (R131 to R137). -/
theorem decRead_serve_combines {s : State} {b : Byte} {rest : List Byte} (hs : s.dec.state = .accumulating)
    (hsrc : s.srcRest = b :: rest) (hsh : s.dec.shift.toNat < 64) :
    decRead .serve s = .next { s.noteDecAcc with
      dec := {
        state := if b.getLsbD 7 then .accumulating else .done
        acc := .of (s.dec.acc.bits ||| ((b.extractLsb' 0 7).setWidth 64 <<< s.dec.shift.toNat))
        shift := s.dec.shift + 7
        err := s.dec.err }
      srcRest := rest } := by
  have hover : shiftOverflow s.dec.shift = false := by
    rw [← Bool.not_eq_true, shiftOverflow_iff]
    omega
  simp only [decRead, hs, sourceRead, hsrc, decTake, State.setSrcRest_dec, hover, Bool.false_eq_true, if_false]
  rfl

/-- Every step keeps the mark of `enc_rem` reads (R203; log 2). -/
theorem step_encRemFaulted_sticky {s t : State} (h : step s = .next t) (hs : s.encRemFaulted = true) :
    t.encRemFaulted = true := by
  rcases step_encRemFaulted h with hmark | ⟨-, hmark⟩ <;> simp [hmark, hs]

/-- Every step keeps the mark of `dec_acc` reads (R203; log 2). -/
theorem step_decAccFaulted_sticky {s t : State} (h : step s = .next t) (hs : s.decAccFaulted = true) :
    t.decAccFaulted = true := by
  rcases step_decAccFaulted h with hmark | ⟨-, hmark⟩ <;> simp [hmark, hs]

/-- An ENC.EMIT that reads an `enc_rem` holding no value is the spec's fault encRemNotHeld (R12, V1). -/
theorem specOutcome_encEmit_not_held {s : State} (hs : s.enc.state = .emitting) (hheld : s.enc.rem.held = false)
    (hsafe : s.Safe) (a : SinkAnswer) : specOutcome (encEmit a s) = .fault .encRemNotHeld := by
  obtain ⟨hf, -, -⟩ := (safe_iff s).1 hsafe
  obtain ⟨hfaulted, hmark⟩ := encOffer_marks s.enc.rem.bits a s.noteEncRem
  rw [encEmit_of_emitting hs]
  exact specOutcome_of_specFault (specFault_encRemNotHeld (by simp [hfaulted, hf]) (by simp [hmark, hheld]))

/-- Settles O60: each read with the mark it leaves, and the fault that mark is to the spec's model. -/
theorem readingAnUnheldRegister : Obligations.ReadingAnUnheldRegister := by
  refine ⟨fun s hs hheld => ⟨?_, ?_, specOutcome_encEmit_not_held hs hheld⟩, fun s b rest hs hheld hsrc hsh => ?_,
    fun s hs hheld => ?_, fun s t h => ⟨step_encRemFaulted_sticky h, step_decAccFaulted_sticky h⟩, fun s => ?_⟩
  · rw [encEmit_of_emitting hs, encOffer_accept, State.noteEncRem_of_not_held hheld]
  · rw [encEmit_of_emitting hs, encOffer_reject, State.noteEncRem_of_not_held hheld]
  · rw [decRead_serve_combines hs hsrc hsh, State.noteDecAcc_of_not_held hheld]
    refine ⟨rfl, fun hsafe => ?_⟩
    obtain ⟨hf, he, -⟩ := (safe_iff s).1 hsafe
    exact specOutcome_of_specFault (specFault_decAccNotHeld hf he rfl)
  · have hread : hostAct .readResult s = .next { s with decAccFaulted := true } := by
      rcases hostReadResult_cases s with ⟨-, h⟩ | ⟨hn, -⟩
      · rw [hostAct, h, State.noteDecAcc_of_not_held hheld]
      · exact absurd hs hn
    refine ⟨hread, fun hsafe => ?_⟩
    obtain ⟨hf, he, -⟩ := (safe_iff s).1 hsafe
    rw [hread]
    exact specOutcome_of_specFault (specFault_decAccNotHeld hf he rfl)
  · exact ⟨fun hf => specStep_of_specFault ((specFault_cmdIllegal_iff s).2 hf),
      fun hf he => specStep_of_specFault (specFault_encRemNotHeld hf he),
      fun hf he hd => specStep_of_specFault (specFault_decAccNotHeld hf he hd)⟩

/-! ## An encoding byte by byte (R112 to R116) -/

/-- Below 128 one byte is enough (R112). -/
theorem encLength_of_lt {v : Value} (h : v.toNat < 128) : encLength v = 1 := by
  unfold encLength bitlen
  split
  · rfl
  · next hv =>
    have h0 : v.toNat ≠ 0 := fun h0 => hv (BitVec.eq_of_toNat_eq h0)
    have hlog : Nat.log2 v.toNat < 7 := (Nat.log2_lt h0).2 h
    omega

/-- From 128 on an encoding is one byte longer than that of the remaining value (R112). -/
theorem encLength_of_ge {v : Value} (h : 128 ≤ v.toNat) : encLength v = encLength (remNext v) + 1 := by
  have hrem := remNext_toNat v
  have hv : v ≠ 0 := by
    rintro rfl
    exact absurd h (by decide)
  have hr : remNext v ≠ 0 := by
    intro h0
    have hzero : v.toNat / 128 = 0 := by
      rw [← hrem, h0]
      rfl
    omega
  have hlog : Nat.log2 v.toNat = Nat.log2 (remNext v).toNat + 7 := by
    have hlo : 7 ≤ Nat.log2 v.toNat := (Nat.le_log2 (by omega)).2 h
    rw [hrem, Nat.log2_eq_log_two, Nat.log2_eq_log_two, show 128 = 2 ^ 7 by rfl, Nat.log_div_base_pow]
    rw [Nat.log2_eq_log_two] at hlo
    omega
  simp only [encLength, bitlen, hv, hr, if_false, hlog]
  omega

/-- The zero detector stays off exactly from 128 on (R104). -/
theorem not_isLast_iff (v : Value) : isLast v = false ↔ 128 ≤ v.toNat := by
  rw [← Bool.not_eq_true, isLast_iff, Nat.not_lt]

/-- Every encoding has a byte (R112). -/
theorem encLength_pos (v : Value) : 0 < encLength v := Nat.lt_of_lt_of_le Nat.one_pos (Nat.le_max_left _ _)

/-- The byte of the continuation multiplexer as a number: the group, with 128 added on every byte but the last (R105). -/
theorem contMux_toNat (last : Bool) (g : Group) : (contMux last g).toNat = (if last then 0 else 128) + g.toNat := by
  rw [contMux, toNat_append_add]
  cases last <;> simp

/-- The group extractor takes the remainder mod 128 (R101). -/
theorem encGroup_toNat (r : Value) : (encGroup r).toNat = r.toNat % 128 := by
  simp [encGroup]

/-- The formula of R113 for one byte is the continuation flag over the low seven bits (R101, R105). -/
theorem groupByte_eq_contMux (v : Value) (more : Prop) [Decidable more] :
    (v &&& 0x7F#64).setWidth 8 ||| (if more then 0x80#8 else 0x00#8) = contMux (!decide more) (encGroup v) := by
  have hlow : (v &&& 0x7F#64).toNat = v.toNat % 128 := Nat.and_two_pow_sub_one_eq_mod v.toNat 7
  have hlt : v.toNat % 128 < 2 ^ 7 := Nat.mod_lt _ (by decide)
  apply BitVec.eq_of_toNat_eq
  rw [contMux_toNat, encGroup_toNat, BitVec.toNat_or, BitVec.toNat_setWidth, hlow, Nat.mod_eq_of_lt (by omega)]
  by_cases hm : more
  · simp only [hm, if_true, decide_true, Bool.not_true, Bool.false_eq_true, if_false]
    exact (Nat.lor_comm _ _).trans (Nat.two_pow_add_eq_or_of_lt hlt 1).symm
  · simp [hm]

/-- The first byte of an encoding is the one the first ENC.EMIT offers (R107, R113). -/
theorem encByteAt_zero (v : Value) : encByteAt v 0 = emitByte v := by
  have hlast : isLast v = !decide (0 < encLength v - 1) := by
    rcases Nat.lt_or_ge v.toNat 128 with hv | hv
    · rw [(isLast_iff v).2 hv, encLength_of_lt hv]
      rfl
    · have hpos := encLength_pos (remNext v)
      rw [(not_isLast_iff v).2 hv, encLength_of_ge hv]
      simp [hpos]
  rw [emitByte, hlast, ← groupByte_eq_contMux]
  simp [encByteAt]

/-- From 128 on the later bytes of an encoding are those of the remaining value (R113). -/
theorem encByteAt_succ {v : Value} (h : 128 ≤ v.toNat) (i : Nat) : encByteAt v (i + 1) = encByteAt (remNext v) i := by
  have hpos := encLength_pos (remNext v)
  have hshift : v >>> (7 * (i + 1)) = remNext v >>> (7 * i) := by
    rw [remNext, ← BitVec.shiftRight_add, Nat.mul_succ, Nat.add_comm]
  have hmore : i + 1 < encLength v - 1 ↔ i < encLength (remNext v) - 1 := by
    rw [encLength_of_ge h]
    omega
  simp only [encByteAt, hshift, hmore]

/-- The encoding of a value whose first byte is its last (R116). -/
theorem encBytes_of_isLast {v : Value} (h : isLast v = true) : encBytes v = [emitByte v] := by
  rw [encBytes, encLength_of_lt ((isLast_iff v).1 h), ← encByteAt_zero]
  rfl

/-- Any other encoding is its first byte and the encoding of the remaining value (R107, R116). -/
theorem encBytes_of_not_isLast {v : Value} (h : isLast v = false) :
    encBytes v = emitByte v :: encBytes (remNext v) := by
  have hv : 128 ≤ v.toNat := (not_isLast_iff v).1 h
  simp only [encBytes, encLength_of_ge hv, List.range_succ_eq_map, List.map_cons, List.map_map, encByteAt_zero]
  exact congrArg _ (List.map_congr_left fun i _ => encByteAt_succ hv i)

/-! ## Runs of turns (R8, R61) -/

/-- In a list of turns that runs through, the first turn goes on and the others run through after it (R8). -/
theorem runTurns_cons_next {u : Turn} {us : List Turn} {s t : State} (h : runTurns (u :: us) s = .next t) :
    ∃ s', runTurn u s = .next s' ∧ runTurns us s' = .next t := by
  rw [runTurns] at h
  rcases hu : runTurn u s with s' | f | r <;> rw [hu] at h
  · exact ⟨s', rfl, h⟩
  · cases h
  · cases h

/-- DEC.READ touches neither the encoder nor its sink (R54, R61). -/
theorem decRead_keeps_encoder {m : SourceMove} {s t : State} (h : decRead m s = .next t) :
    t.enc = s.enc ∧ t.sinkLog = s.sinkLog := by
  rcases decRead_cases h with ⟨-, rfl⟩ | ⟨-, -, rfl⟩ | ⟨b, rest, -, -, -, ⟨-, rfl⟩ | ⟨-, rfl⟩⟩ <;> exact ⟨rfl, rfl⟩

/-- An accepted ENC.EMIT appends one byte and leaves the remaining value one group shorter (R107). -/
theorem encEmit_accept_next {s t : State} {v : Value} {c : BitVec 4} (henc : s.enc = ⟨.emitting, .of v, c⟩)
    (h : encEmit .accept s = .next t) :
    t.enc = ⟨if isLast v then .done else .emitting, .of (remNext v), c + 1⟩ ∧
    t.sinkLog = s.sinkLog ++ [emitByte v] := by
  rcases encEmit_cases h with ⟨hn, -⟩ | ⟨-, -, rfl⟩ | ⟨-, ha, -⟩
  · simp [henc] at hn
  · simp [henc, EncEngine.afterAccept]
  · cases ha

/-- The turns of the sink, accepting, and of the source, in any order. -/
def AcceptsAndReads (us : List Turn) : Prop := ∀ u ∈ us, u = .sink .accept ∨ ∃ m, u = .source m

/-- Such a list, taken apart. -/
theorem acceptsAndReads_cons {u : Turn} {us : List Turn} :
    AcceptsAndReads (u :: us) ↔ (u = .sink .accept ∨ ∃ m, u = .source m) ∧ AcceptsAndReads us :=
  List.forall_mem_cons

/-- Outside EMITTING the streams' turns leave the encoder and its sink alone (R107; log 4). -/
theorem runTurns_not_emitting {us : List Turn} {s t : State} (hs : s.enc.state ≠ .emitting)
    (hus : AcceptsAndReads us) (h : runTurns us s = .next t) : t.enc = s.enc ∧ t.sinkLog = s.sinkLog := by
  induction us generalizing s with
  | nil =>
    cases h
    exact ⟨rfl, rfl⟩
  | cons u us ih =>
    obtain ⟨hu, hus⟩ := acceptsAndReads_cons.1 hus
    obtain ⟨s', hstep, hrest⟩ := runTurns_cons_next h
    have hsame : s'.enc = s.enc ∧ s'.sinkLog = s.sinkLog := by
      rcases hu with rfl | ⟨m, rfl⟩
      · rcases encEmit_cases hstep with ⟨-, rfl⟩ | ⟨he, -⟩ | ⟨he, -⟩
        · exact ⟨rfl, rfl⟩
        · exact absurd he hs
        · exact absurd he hs
      · exact decRead_keeps_encoder hstep
    obtain ⟨henc, hlog⟩ := hsame
    rw [← henc, ← hlog]
    exact ih (henc ▸ hs) hus hrest

/-- From any byte of an encode call on, with enough accepting turns among any turns of the source, the call ends in DONE
with the encoding of the remaining value appended (R61, R116). -/
theorem runTurns_emits_encBytes {us : List Turn} {s t : State} {v : Value} {c : BitVec 4}
    (henc : s.enc = ⟨.emitting, .of v, c⟩) (hus : AcceptsAndReads us)
    (hlen : encLength v ≤ us.count (.sink .accept)) (h : runTurns us s = .next t) :
    t.enc = ⟨.done, .of 0, c + BitVec.ofNat 4 (encLength v)⟩ ∧ t.sinkLog = s.sinkLog ++ encBytes v := by
  induction us generalizing s v c with
  | nil =>
    have hpos := encLength_pos v
    rw [List.count_nil] at hlen
    omega
  | cons u us ih =>
    obtain ⟨hu, htail⟩ := acceptsAndReads_cons.1 hus
    obtain ⟨s', hstep, hrest⟩ := runTurns_cons_next h
    rcases hu with rfl | ⟨m, rfl⟩
    · obtain ⟨henc', hlog⟩ := encEmit_accept_next henc hstep
      rw [List.count_cons_self] at hlen
      rcases hlast : isLast v with _ | _
      · have hv : 128 ≤ v.toNat := (not_isLast_iff v).1 hlast
        rw [encLength_of_ge hv] at hlen ⊢
        obtain ⟨hend, hout⟩ := ih (v := remNext v) (c := c + 1) (by simpa [hlast] using henc') htail (by omega) hrest
        rw [hend, hout, hlog, encBytes_of_not_isLast hlast, Nat.add_comm, BitVec.ofNat_add, ← BitVec.add_assoc]
        simp
      · have hrem : remNext v = 0 := by simpa [isLast] using hlast
        simp only [hlast, if_true] at henc'
        obtain ⟨hend, hout⟩ := runTurns_not_emitting (by simp [henc']) htail hrest
        rw [hend, henc', hout, hlog, hrem, encBytes_of_isLast hlast, encLength_of_lt ((isLast_iff v).1 hlast)]
        simp
    · obtain ⟨henc', hlog⟩ := decRead_keeps_encoder hstep
      rw [← hlog]
      exact ih (henc'.trans henc) htail (by simpa using hlen) hrest

/-- Settles O24: induction over the turns from any byte of the call on, peeling one byte off the encoding per
accepted offer. -/
theorem encodeCallUnderEveryInterleaving : Obligations.EncodeCallUnderEveryInterleaving := by
  intro s t v us henc hus hlen h
  simpa using runTurns_emits_encBytes henc hus hlen h

end Sys2Proof.Machine
end

section
/-! SUPPORT. Proofs of the state statements (10_state.md): O47, O48, O41, O42, O44, O53, O46, O50, O54. -/

namespace Sys2Proof.Machine

/-! ## What a step does to the encoder's registers (R24, R106 to R109, R200) -/

/-- The moves of the encoder's registers: on turn `u`, with `i` as the host's next action (R24). -/
inductive EncMove (u : Turn) (i : HostItem) (e : EncEngine) : EncEngine → Prop where
  | stay : EncMove u i e e
  | accepted : u = .sink .accept → e.state = .emitting → EncMove u i e (e.afterAccept e.rem.bits)
  | rejected : u = .sink .reject → e.state = .emitting → EncMove u i e { e with state := .failed }
  | reset : u = .reset → EncMove u i e EncEngine.reset
  | started (w : CmdWord) (v : Value) : u = .host → i = .present w → decode w = .encStart v → e.state = .idle →
      EncMove u i e ⟨.emitting, .of v, 0⟩
  | acked (w : CmdWord) : u = .host → i = .present w → decode w = .encAck → e.state = .done ∨ e.state = .failed →
      EncMove u i e { e with state := .idle }

/-- A presented command moves the encoder's registers only as ENC.START from IDLE or ENC.ACK from DONE or FAILED (R91,
R106, R108). -/
theorem exec_encMove {w : CmdWord} {s t : State} (h : exec (decode w) s = .next t) :
    EncMove .host (.present w) s.enc t.enc := by
  rw [exec_eq_accept] at h
  rcases accept_cases h with ⟨hadm, ho⟩ | ⟨-, ho⟩ <;> cases ho
  · cases hi : decode w with
    | encStart v => exact .started w v rfl rfl hi (by simpa [admissible, hi] using hadm)
    | encAck => exact .acked w rfl rfl hi (by simpa [admissible, hi] using hadm)
    | nop | reserved011 | reserved100 | decStart | decAck | reserved111 => exact .stay
  · exact .stay

/-- Every turn moves the encoder's registers by one of these moves (R8, R24). -/
theorem runTurn_encMove {u : Turn} {s t : State} (h : runTurn u s = .next t) :
    EncMove u (nextItem s).1 s.enc t.enc := by
  rcases runTurn_cases h with ⟨rfl, h⟩ | ⟨a, rfl, h⟩ | ⟨m, -, h⟩ | ⟨rfl, rfl⟩ | ⟨bs, -, -, rfl⟩ | ⟨l, -, -, rfl⟩
  · rw [← (nextItem_same s).1]
    rcases hostAct_cases h with ⟨w, hw, ho⟩ | ⟨-, -, ho⟩ | ⟨-, -, ho⟩ | ⟨-, l, ho⟩
    · rw [hw]
      exact exec_encMove ho.symm
    · cases ho
      exact .stay
    · cases ho
    · cases ho
      exact .stay
  · rcases encEmit_cases h with ⟨-, rfl⟩ | ⟨hs, rfl, rfl⟩ | ⟨hs, rfl, rfl⟩
    · exact .stay
    · exact .accepted rfl hs
    · exact .rejected rfl hs
  · rw [(decRead_keeps_encoder h).1]
    exact .stay
  · exact .reset rfl
  · exact .stay
  · exact .stay

/-- Every step moves the encoder's registers by one of these moves (R8, R24). -/
theorem step_encMove {s t : State} (h : step s = .next t) :
    EncMove (nextTurn s).1 (nextItem (nextTurn s).2).1 s.enc t.enc := by
  have hmove := runTurn_encMove (step_cases h).2
  rwa [(nextTurn_same s).1] at hmove

/-! ## The encoder invariants (R35) -/

/-- The encoder invariants as a predicate of the encoder's registers alone (R35, R39). -/
def EncEngine.Inv (e : EncEngine) : Prop :=
  e.count.toNat ≤ 10 ∧
  (e.state = .emitting → e.count.toNat ≤ 9 ∧ e.rem.held = true ∧ e.rem.bits.toNat < 2 ^ (64 - 7 * e.count.toNat)) ∧
  (e.state = .done → 1 ≤ e.count.toNat) ∧
  (e.state = .failed → e.count.toNat ≤ 9)

/-- The state's encoder invariants are those of its encoder's registers. -/
theorem encInv_iff (s : State) : s.EncInv ↔ s.enc.Inv := Iff.rfl

/-! What the encoder invariants ask in each state of the engine -/

theorem encInv_idle {r : DataReg} {c : BitVec 4} (hc : c.toNat ≤ 10) : EncEngine.Inv ⟨.idle, r, c⟩ := by
  simp [EncEngine.Inv, hc]

theorem encInv_emitting {v : Value} {c : BitVec 4} (hc : c.toNat ≤ 9) (hv : v.toNat < 2 ^ (64 - 7 * c.toNat)) :
    EncEngine.Inv ⟨.emitting, .of v, c⟩ := by
  simp [EncEngine.Inv, hc, hv, Nat.le_succ_of_le hc]

theorem encInv_done {r : DataReg} {c : BitVec 4} (h1 : 1 ≤ c.toNat) (hc : c.toNat ≤ 10) :
    EncEngine.Inv ⟨.done, r, c⟩ := by
  simp [EncEngine.Inv, h1, hc]

theorem encInv_failed {r : DataReg} {c : BitVec 4} (hc : c.toNat ≤ 9) : EncEngine.Inv ⟨.failed, r, c⟩ := by
  simp [EncEngine.Inv, hc, Nat.le_succ_of_le hc]

/-- The byte counter does not wrap on the ten bytes of a call (R21). -/
theorem count_succ_toNat {c : BitVec 4} (h : c.toNat ≤ 9) : (c + 1).toNat = c.toNat + 1 := by
  rw [BitVec.toNat_add]
  change (c.toNat + 1) % 16 = c.toNat + 1
  omega

/-- A value with more than one byte left has its bound shrunk by one group, and is not at its tenth byte (R35, R102). -/
theorem remNext_lt {v : Value} {c : Nat} (hv : v.toNat < 2 ^ (64 - 7 * c)) (hmore : 128 ≤ v.toNat) :
    c ≤ 8 ∧ (remNext v).toNat < 2 ^ (64 - 7 * (c + 1)) := by
  have hpow : 2 ^ 7 < 2 ^ (64 - 7 * c) := by omega
  have hexp : 7 < 64 - 7 * c := (Nat.pow_lt_pow_iff_right (by decide)).1 hpow
  refine ⟨by omega, ?_⟩
  rw [remNext_toNat, Nat.div_lt_iff_lt_mul (by decide), show 128 = 2 ^ 7 by rfl, ← Nat.pow_add]
  convert hv using 2
  omega

/-- An accepted byte keeps the encoder invariants (R35, R107). -/
theorem encInv_afterAccept {e : EncEngine} (hinv : e.Inv) (hs : e.state = .emitting) :
    (e.afterAccept e.rem.bits).Inv := by
  obtain ⟨-, hemit, -⟩ := hinv
  obtain ⟨hc, -, hrem⟩ := hemit hs
  have hcount := count_succ_toNat hc
  rw [EncEngine.afterAccept]
  rcases hlast : isLast e.rem.bits with _ | _
  · obtain ⟨hc8, hnext⟩ := remNext_lt hrem ((not_isLast_iff _).1 hlast)
    exact encInv_emitting (by omega) (hcount ▸ hnext)
  · exact encInv_done (by omega) (by omega)

/-- Every move keeps the encoder invariants (R35). -/
theorem EncMove.inv {u : Turn} {i : HostItem} {e e' : EncEngine} (h : EncMove u i e e') (hinv : e.Inv) : e'.Inv := by
  obtain ⟨hc, hemit, -⟩ := id hinv
  cases h with
  | stay => exact hinv
  | accepted _ hs => exact encInv_afterAccept hinv hs
  | rejected _ hs => exact encInv_failed (hemit hs).1
  | reset => exact encInv_idle (by decide)
  | started _ v => exact encInv_emitting (by decide) v.isLt
  | acked => exact encInv_idle hc

/-- Settles O47: a step moves the encoder's registers by one of the encoder's moves, and each keeps the invariants. -/
theorem stepKeepsEncoderInvariant : Obligations.StepKeepsEncoderInvariant :=
  fun s t hinv h => (encInv_iff t).2 ((step_encMove h).inv ((encInv_iff s).1 hinv))

/-! ## What a step does to the decoder's registers (R25, R136 to R141, R200) -/

/-- ENC.EMIT touches neither the decoder nor its source (R54, R61). -/
theorem encEmit_keeps_decoder {a : SinkAnswer} {s t : State} (h : encEmit a s = .next t) :
    t.dec = s.dec ∧ t.srcRest = s.srcRest := by
  rcases encEmit_cases h with ⟨-, rfl⟩ | ⟨-, -, rfl⟩ | ⟨-, -, rfl⟩ <;> exact ⟨rfl, rfl⟩

/-- The moves of the decoder's registers: on turn `u`, with `i` as the host's next action (R25). -/
inductive DecMove (u : Turn) (i : HostItem) (d : DecEngine) : DecEngine → Prop where
  | stay : DecMove u i d d
  | combined (b : Byte) : u = .source .serve → d.state = .accumulating → d.shift.toNat < 64 →
      DecMove u i d (d.afterByte d.acc.bits b)
  | overflowed : u = .source .serve → d.state = .accumulating → 64 ≤ d.shift.toNat →
      DecMove u i d { d with state := .failed, err := .overflow }
  | starved (m : SourceMove) : u = .source m → d.state = .accumulating →
      DecMove u i d { d with state := .failed, err := .stream }
  | reset : u = .reset → DecMove u i d DecEngine.reset
  | started (w : CmdWord) : u = .host → i = .present w → decode w = .decStart → d.state = .idle →
      DecMove u i d ⟨.accumulating, .of 0, 0, .none⟩
  | acked (w : CmdWord) : u = .host → i = .present w → decode w = .decAck → d.state = .done ∨ d.state = .failed →
      DecMove u i d { d with state := .idle, err := .none }

/-- A presented command moves the decoder's registers only as DEC.START from IDLE or DEC.ACK from DONE or FAILED (R91,
R136, R138). -/
theorem exec_decMove {w : CmdWord} {s t : State} (h : exec (decode w) s = .next t) :
    DecMove .host (.present w) s.dec t.dec := by
  rw [exec_eq_accept] at h
  rcases accept_cases h with ⟨hadm, ho⟩ | ⟨-, ho⟩ <;> cases ho
  · cases hi : decode w with
    | decStart => exact .started w rfl rfl hi (by simpa [admissible, hi] using hadm)
    | decAck => exact .acked w rfl rfl hi (by simpa [admissible, hi] using hadm)
    | nop | encStart | encAck | reserved011 | reserved100 | reserved111 => exact .stay
  · exact .stay

/-- Every turn moves the decoder's registers by one of these moves (R8, R25). -/
theorem runTurn_decMove {u : Turn} {s t : State} (h : runTurn u s = .next t) :
    DecMove u (nextItem s).1 s.dec t.dec := by
  rcases runTurn_cases h with ⟨rfl, h⟩ | ⟨a, -, h⟩ | ⟨m, rfl, h⟩ | ⟨rfl, rfl⟩ | ⟨bs, -, -, rfl⟩ | ⟨l, -, -, rfl⟩
  · rw [← (nextItem_same s).2.1]
    rcases hostAct_cases h with ⟨w, hw, ho⟩ | ⟨-, -, ho⟩ | ⟨-, -, ho⟩ | ⟨-, l, ho⟩
    · rw [hw]
      exact exec_decMove ho.symm
    · cases ho
      exact .stay
    · cases ho
    · cases ho
      exact .stay
  · rw [(encEmit_keeps_decoder h).1]
    exact .stay
  · rcases decRead_cases h with ⟨-, rfl⟩ | ⟨hs, -, rfl⟩ | ⟨b, rest, hs, rfl, -, ⟨hsh, rfl⟩ | ⟨hsh, rfl⟩⟩
    · exact .stay
    · exact .starved m rfl hs
    · exact .overflowed rfl hs hsh
    · exact .combined b rfl hs hsh
  · exact .reset rfl
  · exact .stay
  · exact .stay

/-- Every step moves the decoder's registers by one of these moves (R8, R25). -/
theorem step_decMove {s t : State} (h : step s = .next t) :
    DecMove (nextTurn s).1 (nextItem (nextTurn s).2).1 s.dec t.dec := by
  have hmove := runTurn_decMove (step_cases h).2
  rwa [(nextTurn_same s).2.1] at hmove

/-! ## The decoder invariants (R36) -/

/-- The decoder invariants as a predicate of the decoder's registers alone (R36, R39, R79). -/
def DecEngine.Inv (d : DecEngine) : Prop :=
  d.shift.toNat % 7 = 0 ∧ d.shift.toNat ≤ 70 ∧
  (d.state = .accumulating → d.acc.held = true ∧ d.acc.bits.toNat < 2 ^ min 64 d.shift.toNat) ∧
  (d.state = .done → 7 ≤ d.shift.toNat ∧ d.acc.held = true) ∧
  (d.err = .overflow → d.shift.toNat = 70) ∧
  (d.err = .none ↔ d.state ≠ .failed)

/-- The state's decoder invariants are those of its decoder's registers. -/
theorem decInv_iff (s : State) : s.DecInv ↔ s.dec.Inv := Iff.rfl

/-! What the decoder invariants ask in each state of the engine -/

theorem decInv_idle {r : DataReg} {sh : BitVec 7} (hmod : sh.toNat % 7 = 0) (hle : sh.toNat ≤ 70) :
    DecEngine.Inv ⟨.idle, r, sh, .none⟩ := by
  simp [DecEngine.Inv, hmod, hle]

theorem decInv_accumulating {v : Value} {sh : BitVec 7} (hmod : sh.toNat % 7 = 0) (hle : sh.toNat ≤ 70)
    (hv : v.toNat < 2 ^ min 64 sh.toNat) : DecEngine.Inv ⟨.accumulating, .of v, sh, .none⟩ := by
  simp [DecEngine.Inv, hmod, hle, hv]

theorem decInv_done {v : Value} {sh : BitVec 7} (hmod : sh.toNat % 7 = 0) (hle : sh.toNat ≤ 70)
    (h7 : 7 ≤ sh.toNat) : DecEngine.Inv ⟨.done, .of v, sh, .none⟩ := by
  simp [DecEngine.Inv, hmod, hle, h7]

theorem decInv_overflow {r : DataReg} {sh : BitVec 7} (h70 : sh.toNat = 70) :
    DecEngine.Inv ⟨.failed, r, sh, .overflow⟩ := by
  simp [DecEngine.Inv, h70]

theorem decInv_stream {r : DataReg} {sh : BitVec 7} (hmod : sh.toNat % 7 = 0) (hle : sh.toNat ≤ 70) :
    DecEngine.Inv ⟨.failed, r, sh, .stream⟩ := by
  simp [DecEngine.Inv, hmod, hle]

/-- A combined byte keeps the decoder invariants: below 64 a multiple of 7 is at most 63 (R36, R133, R137). -/
theorem decInv_afterByte {d : DecEngine} (hinv : d.Inv) (hs : d.state = .accumulating) (hsh : d.shift.toNat < 64)
    (b : Byte) : (d.afterByte d.acc.bits b).Inv := by
  obtain ⟨hmod, -, hacc, -, -, herr⟩ := hinv
  have hnone : d.err = .none := herr.2 (by simp [hs])
  have hnext := shiftNext_toNat d.shift (by omega)
  have hlt := accNext_lt d.acc.bits (byteGroup b) d.shift (hacc hs).2
  rw [DecEngine.afterByte, hnone]
  rcases contBit b with _ | _
  · exact decInv_done (by omega) (by omega) (by omega)
  · exact decInv_accumulating (by omega) (by omega) (hnext ▸ hlt)

/-- Every move keeps the decoder invariants (R36). -/
theorem DecMove.inv {u : Turn} {i : HostItem} {d d' : DecEngine} (h : DecMove u i d d') (hinv : d.Inv) : d'.Inv := by
  obtain ⟨hmod, hle, -⟩ := id hinv
  cases h with
  | stay => exact hinv
  | combined b _ hs hsh => exact decInv_afterByte hinv hs hsh b
  | overflowed _ _ hsh => exact decInv_overflow (by omega)
  | starved => exact decInv_stream hmod hle
  | reset => exact decInv_idle (by decide) (by decide)
  | started => exact decInv_accumulating (by decide) (by decide) (by decide)
  | acked => exact decInv_idle hmod hle

/-- Settles O48: a step moves the decoder's registers by one of the decoder's moves, and each keeps the invariants. -/
theorem stepKeepsDecoderInvariant : Obligations.StepKeepsDecoderInvariant :=
  fun s t hinv h => (decInv_iff t).2 ((step_decMove h).inv ((decInv_iff s).1 hinv))

/-! ## The two engine steps share nothing (R39, R54, R61) -/

/-- `s` with what an EMIT step may write taken from `t`: the encoder's registers, the sink, and the mark of `enc_rem`
reads (R107; log 2). -/
def State.withEncPart (s t : State) : State :=
  { s with enc := t.enc, sinkLog := t.sinkLog, encRemFaulted := t.encRemFaulted }

/-- `s` with what a READ step may write taken from `t`: the decoder's registers, the source, and the mark of `dec_acc`
reads (R137; log 2). -/
def State.withDecPart (s t : State) : State :=
  { s with dec := t.dec, srcRest := t.srcRest, decAccFaulted := t.decAccFaulted }

/-- The two parts are disjoint (R39). -/
theorem withEncPart_withDecPart (s v u : State) :
    (s.withDecPart u).withEncPart v = (s.withEncPart v).withDecPart u := rfl

/-- An EMIT step writes the encoder's part only (R54, R107). -/
theorem encEmit_withEncPart {a : SinkAnswer} {s t : State} (h : encEmit a s = .next t) : t = s.withEncPart t := by
  rcases encEmit_cases h with ⟨-, rfl⟩ | ⟨-, -, rfl⟩ | ⟨-, -, rfl⟩ <;> rfl

/-- A READ step writes the decoder's part only (R54, R137). -/
theorem decRead_withDecPart {m : SourceMove} {s t : State} (h : decRead m s = .next t) : t = s.withDecPart t := by
  rcases decRead_cases h with ⟨-, rfl⟩ | ⟨-, -, rfl⟩ | ⟨b, rest, -, -, -, ⟨-, rfl⟩ | ⟨-, rfl⟩⟩ <;> rfl

/-- Settles O41: the written parts are those of `withEncPart` and `withDecPart`; a rejected offer and a failed request
leave the stream, and reading a register that holds a value leaves the mark. -/
theorem engineStepFrame : Obligations.EngineStepFrame := by
  refine ⟨fun a s t h => ⟨encEmit_withEncPart h, ?_⟩, fun m s t h => ⟨decRead_withDecPart h, ?_⟩⟩
  · rcases encEmit_cases h with ⟨-, rfl⟩ | ⟨hs, rfl, rfl⟩ | ⟨hs, rfl, rfl⟩
    · exact ⟨fun _ => rfl, fun _ => rfl⟩
    · exact ⟨nofun, by simp +contextual [hs]⟩
    · exact ⟨fun _ => rfl, by simp +contextual [hs]⟩
  · rcases decRead_cases h with ⟨-, rfl⟩ | ⟨hs, -, rfl⟩ | ⟨b, rest, hs, rfl, -, ⟨-, rfl⟩ | ⟨-, rfl⟩⟩
    · exact ⟨fun _ => rfl, fun _ => rfl⟩
    · exact ⟨fun _ => rfl, fun _ => rfl⟩
    · exact ⟨nofun, fun _ => rfl⟩
    · exact ⟨nofun, by simp +contextual [hs]⟩

/-- An EMIT step neither reads nor disturbs the decoder's part (R61). -/
theorem encEmit_of_withDecPart {a : SinkAnswer} {s t : State} (h : encEmit a s = .next t) (u : State) :
    encEmit a (s.withDecPart u) = .next (t.withDecPart u) := by
  rcases hs : s.enc.state <;> simp only [encEmit, hs, State.withDecPart] at h ⊢ <;> cases h
  case emitting => cases a <;> rfl
  all_goals rfl

/-- Taking a byte in neither reads nor disturbs the encoder's part (R61, R137). -/
theorem decTake_withEncPart (b : Byte) (s v : State) :
    decTake b (s.withEncPart v) = (decTake b s).withEncPart v := by
  rcases hover : shiftOverflow s.dec.shift with _ | _ <;> simp only [decTake, State.withEncPart, hover] <;> rfl

/-- A READ step neither reads nor disturbs the encoder's part (R61). -/
theorem decRead_of_withEncPart {m : SourceMove} {s t : State} (h : decRead m s = .next t) (v : State) :
    decRead m (s.withEncPart v) = .next (t.withEncPart v) := by
  have hdec : (s.withEncPart v).dec = s.dec := rfl
  rcases hs : s.dec.state <;> simp only [decRead, hdec, hs] at h ⊢
  case accumulating =>
    cases m with
    | fail =>
      cases h
      rfl
    | serve =>
      have hrest : (s.withEncPart v).srcRest = s.srcRest := rfl
      rcases hsrc : s.srcRest with _ | ⟨b, rest⟩ <;> simp only [sourceRead, hrest, hsrc] at h ⊢ <;> cases h
      · rfl
      · exact congrArg _ (decTake_withEncPart b (s.setSrcRest rest) v)
  all_goals
    cases h
    rfl

/-- Settles O42: either order goes on, to the state with both parts written. -/
theorem engineStepsCommute : Obligations.EngineStepsCommute := by
  intro a m s t
  obtain ⟨v, hv⟩ := encEmit_next a s
  obtain ⟨u, hu⟩ := decRead_next m s
  have hread : decRead m v = .next (u.withEncPart v) := by
    have h := decRead_of_withEncPart hu v
    rwa [← encEmit_withEncPart hv] at h
  have hemit : encEmit a u = .next (v.withDecPart u) := by
    have h := encEmit_of_withDecPart hv u
    rwa [← decRead_withDecPart hu] at h
  have hmeet : u.withEncPart v = v.withDecPart u := calc
    u.withEncPart v = (s.withDecPart u).withEncPart v := by rw [← decRead_withDecPart hu]
    _ = (s.withEncPart v).withDecPart u := withEncPart_withDecPart s v u
    _ = v.withDecPart u := by rw [← encEmit_withEncPart hv]
  simp only [andThen, hv, hu, hread, hemit, hmeet]

/-! ## The end of a call (R24, R25, R181) -/

/-- In DONE and FAILED the encoder's registers stay, or reset or ENC.ACK takes them to IDLE (R24, R108, R181). -/
theorem EncMove.of_ended {u : Turn} {i : HostItem} {e e' : EncEngine} (h : EncMove u i e e')
    (hend : e.state = .done ∨ e.state = .failed) :
    e' = e ∨ e'.state = .idle ∧ (u = .reset ∨ u = .host ∧ ∃ w, i = .present w ∧ decode w = .encAck) := by
  cases h with
  | stay => exact .inl rfl
  | accepted _ hs | rejected _ hs | started _ _ _ _ _ hs => simp [hs] at hend
  | reset hu => exact .inr ⟨rfl, .inl hu⟩
  | acked w hu hi hw => exact .inr ⟨rfl, .inr ⟨hu, w, hi, hw⟩⟩

/-- In DONE and FAILED the decoder's registers stay, or reset or DEC.ACK takes them to IDLE (R25, R138, R181). -/
theorem DecMove.of_ended {u : Turn} {i : HostItem} {d d' : DecEngine} (h : DecMove u i d d')
    (hend : d.state = .done ∨ d.state = .failed) :
    d' = d ∨ d'.state = .idle ∧ (u = .reset ∨ u = .host ∧ ∃ w, i = .present w ∧ decode w = .decAck) := by
  cases h with
  | stay => exact .inl rfl
  | combined _ _ hs | overflowed _ hs | starved _ _ hs | started _ _ _ _ hs => simp [hs] at hend
  | reset hu => exact .inr ⟨rfl, .inl hu⟩
  | acked w hu hi hw => exact .inr ⟨rfl, .inr ⟨hu, w, hi, hw⟩⟩

/-- Settles O44: each engine's moves from DONE and FAILED. -/
theorem endedCallsLeaveOnlyToIdle : Obligations.EndedCallsLeaveOnlyToIdle :=
  fun _ _ h => ⟨(step_encMove h).of_ended, (step_decMove h).of_ended⟩

/-! ## The STATUS word (R31, R78, R79) -/

/-- A field of STATUS read off STATUS as a number. -/
theorem status_field {s : State} {k n : Nat} {x : BitVec n} (h : s.status.toNat / 2 ^ k % 2 ^ n = x.toNat) :
    s.status.extractLsb' k n = x := by
  apply BitVec.eq_of_toNat_eq
  rw [BitVec.extractLsb'_toNat, Nat.shiftRight_eq_div_pow, h]

/-- The fields of STATUS besides the engines' states, each at its place, and the reserved bits 0 (R31). -/
theorem status_fields (s : State) :
    s.status.extractLsb' 2 4 = s.enc.count ∧ s.status.extractLsb' 8 2 = s.dec.err.code ∧
    s.status.extractLsb' 10 7 = s.dec.shift ∧ s.status.extractLsb' 17 1 = BitVec.ofBool s.cmdIllegal ∧
    s.status.extractLsb' 18 14 = 0#14 := by
  have henc := s.enc.state.code.isLt
  have hcount := s.enc.count.isLt
  have hdec := s.dec.state.code.isLt
  have herr := s.dec.err.code.isLt
  have hshift := s.dec.shift.isLt
  have hillegal := s.cmdIllegal.toNat_le
  have hbit : (BitVec.ofBool s.cmdIllegal).toNat = s.cmdIllegal.toNat := BitVec.toNat_ofBool _
  have hzero : (0#14).toNat = 0 := rfl
  refine ⟨status_field ?_, status_field ?_, status_field ?_, status_field ?_, status_field ?_⟩ <;>
    rw [status_toNat] <;> omega

/-- CMD_ILLEGAL is bit 17 of STATUS (R31). -/
theorem status_illegalBit (s : State) : s.status.getLsbD 17 = s.cmdIllegal := by
  obtain ⟨-, -, -, h, -⟩ := status_fields s
  have hbit := congrArg (·.getLsbD 0) h
  simpa using hbit

/-- The code 11 of DEC_ERR is never produced (R27, R78). -/
theorem decErr_code_ne (e : DecErr) : e.code ≠ 0b11#2 := by
  cases e <;> decide

/-- Within the invariants the shift counter is `7k` with `k ≤ 10` (R36, R79). -/
theorem decInv_shift {s : State} (h : s.DecInv) : ∃ k, k ≤ 10 ∧ s.dec.shift.toNat = 7 * k := by
  obtain ⟨hmod, hle, -⟩ := h
  exact ⟨s.dec.shift.toNat / 7, by omega, by omega⟩

/-- STATUS is 0 at reset (R37). -/
theorem status_reset : State.reset.status = 0x00000000#32 := rfl

/-- Settles O53: each field read off STATUS as a number. -/
theorem statusWordLayout : Obligations.StatusWordLayout := by
  intro s
  obtain ⟨hcount, herr, hshift, -, hreserved⟩ := status_fields s
  refine ⟨status_encField s, hcount, status_decField s, herr, hshift, status_illegalBit s, hreserved,
    herr ▸ decErr_code_ne _, fun hinv => ?_, fun hinv => ?_, rfl, status_reset⟩
  · rw [hcount]
    exact hinv.1
  · rw [hshift]
    exact decInv_shift hinv

/-! ## Reset (R37) -/

/-- Settles O46: at reset both engines are IDLE with their counters 0. -/
theorem invariantsHoldAtReset : Obligations.InvariantsHoldAtReset :=
  ⟨encInv_idle (by decide), decInv_idle (by decide) (by decide)⟩

/-- Settles O50: the reset values of the two engines, and the ports read off them. -/
theorem resetLeaves : Obligations.ResetLeaves :=
  ⟨rfl, rfl, rfl, rfl, rfl, rfl, rfl, rfl, status_reset, rfl⟩

/-! ## DEC_RESULT (R32) -/

/-- Settles O54: the read of DEC_RESULT, and the host's action on it, in DONE and outside it. -/
theorem resultWindow : Obligations.ResultWindow := by
  refine fun s => ⟨beq_iff_eq, fun v hs hacc => ?_, fun hs => ?_⟩
  · obtain ⟨-, hport⟩ := (readDecResult_cases s).resolve_right fun h => h.1 hs
    obtain ⟨-, hread⟩ := (hostReadResult_cases s).resolve_right fun h => h.1 hs
    have hnote : s.noteDecAcc = s := State.noteDecAcc_of_held (by rw [hacc])
    exact ⟨by rw [hport, hacc], by rw [hostAct, hread, hnote]⟩
  · obtain ⟨-, hport⟩ := (readDecResult_cases s).resolve_left fun h => hs h.1
    obtain ⟨-, hread⟩ := (hostReadResult_cases s).resolve_left fun h => hs h.1
    exact ⟨hport, hread⟩

end Sys2Proof.Machine
end

section
/-! SUPPORT. Proofs of the statements about the streams (20_memory.md): O45, O55. -/

namespace Sys2Proof.Machine

/-! ## What a step does to the two streams and their binding (R51 to R55, R60) -/

/-- An action of the host touches neither a stream nor the binding (R51, R55, R94). -/
theorem hostAct_keeps_streams {i : HostItem} {s t : State} (h : hostAct i s = .next t) :
    t.sinkLog = s.sinkLog ∧ t.srcRest = s.srcRest ∧ t.sinkObj = s.sinkObj ∧ t.srcObj = s.srcObj := by
  rcases hostAct_cases h with ⟨w, -, ho⟩ | ⟨-, -, ho⟩ | ⟨-, -, ho⟩ | ⟨-, l, ho⟩
  · obtain ⟨hsink, hsrc, hsinkObj, hsrcObj, -⟩ := exec_sameOutside ho.symm
    exact ⟨hsink, hsrc, hsinkObj, hsrcObj⟩
  · cases ho
    exact ⟨rfl, rfl, rfl, rfl⟩
  · cases ho
  · cases ho
    exact ⟨rfl, rfl, rfl, rfl⟩

/-- The host's turn touches neither a stream nor the binding (R51, R55, R94). -/
theorem hostTurn_keeps_streams {s t : State} (h : hostAct (nextItem s).1 (nextItem s).2 = .next t) :
    t.sinkLog = s.sinkLog ∧ t.srcRest = s.srcRest ∧ t.sinkObj = s.sinkObj ∧ t.srcObj = s.srcObj := by
  obtain ⟨-, -, -, hsink, hsrc, hsinkObj, hsrcObj, -⟩ := nextItem_same s
  have hact := hostAct_keeps_streams h
  rwa [hsink, hsrc, hsinkObj, hsrcObj] at hact

/-- No turn binds an engine to another object (R51; log 20). -/
theorem runTurn_keeps_binding {u : Turn} {s t : State} (h : runTurn u s = .next t) :
    t.sinkObj = s.sinkObj ∧ t.srcObj = s.srcObj := by
  rcases runTurn_cases h with ⟨-, h⟩ | ⟨a, -, h⟩ | ⟨m, -, h⟩ | ⟨-, rfl⟩ | ⟨bs, -, -, rfl⟩ | ⟨l, -, -, rfl⟩
  · obtain ⟨-, -, hbinding⟩ := hostTurn_keeps_streams h
    exact hbinding
  · rw [encEmit_withEncPart h]
    exact ⟨rfl, rfl⟩
  · rw [decRead_withDecPart h]
    exact ⟨rfl, rfl⟩
  all_goals exact ⟨rfl, rfl⟩

/-- No step binds an engine to another object (R51; log 20). -/
theorem step_keeps_binding {s t : State} (h : step s = .next t) : t.sinkObj = s.sinkObj ∧ t.srcObj = s.srcObj := by
  obtain ⟨-, -, -, -, -, hsinkObj, hsrcObj, -⟩ := nextTurn_same s
  have hturn := runTurn_keeps_binding (step_cases h).2
  rwa [hsinkObj, hsrcObj] at hturn

/-- A turn appends to the sink only as the byte accepted from the encoder in EMITTING, or as another user's bytes
outside EMITTING (R52, R107; log 7). -/
theorem runTurn_sinkLog {u : Turn} {s t : State} (h : runTurn u s = .next t) :
    t.sinkLog = s.sinkLog ∨
    (s.enc.state = .emitting ∧ u = .sink .accept ∧ t.sinkLog = s.sinkLog ++ [emitByte s.enc.rem.bits]) ∨
    (s.enc.state ≠ .emitting ∧ ∃ bs, u = .otherSink bs ∧ t.sinkLog = s.sinkLog ++ bs) := by
  rcases runTurn_cases h with ⟨-, h⟩ | ⟨a, rfl, h⟩ | ⟨m, -, h⟩ | ⟨-, rfl⟩ | ⟨bs, rfl, hs, rfl⟩ | ⟨l, -, -, rfl⟩
  · exact .inl (hostTurn_keeps_streams h).1
  · rcases encEmit_cases h with ⟨-, rfl⟩ | ⟨hs, rfl, rfl⟩ | ⟨-, -, rfl⟩
    · exact .inl rfl
    · exact .inr (.inl ⟨hs, rfl, rfl⟩)
    · exact .inl rfl
  · exact .inl (decRead_keeps_encoder h).2
  · exact .inl rfl
  · exact .inr (.inr ⟨hs, bs, rfl, rfl⟩)
  · exact .inl rfl

/-- A turn changes what the source holds only as the byte the decoder reads in ACCUMULATING, or by another user outside
ACCUMULATING (R53, R137; log 7). -/
theorem runTurn_srcRest {u : Turn} {s t : State} (h : runTurn u s = .next t) :
    t.srcRest = s.srcRest ∨
    (s.dec.state = .accumulating ∧ u = .source .serve ∧ ∃ b, s.srcRest = b :: t.srcRest) ∨
    (s.dec.state ≠ .accumulating ∧ u = .otherSource t.srcRest) := by
  rcases runTurn_cases h with ⟨-, h⟩ | ⟨a, -, h⟩ | ⟨m, rfl, h⟩ | ⟨-, rfl⟩ | ⟨bs, -, -, rfl⟩ | ⟨l, rfl, hs, rfl⟩
  · exact .inl (hostTurn_keeps_streams h).2.1
  · exact .inl (encEmit_keeps_decoder h).2
  · rcases decRead_cases h with ⟨-, rfl⟩ | ⟨-, -, rfl⟩ | ⟨b, rest, hs, rfl, hsrc, ⟨-, rfl⟩ | ⟨-, rfl⟩⟩
    · exact .inl rfl
    · exact .inl rfl
    · exact .inr (.inl ⟨hs, rfl, b, hsrc⟩)
    · exact .inr (.inl ⟨hs, rfl, b, hsrc⟩)
  · exact .inl rfl
  · exact .inl rfl
  · exact .inr (.inr ⟨hs, rfl⟩)

/-- Settles O45: what the step's turn does to each stream, in the state after the turn was taken. -/
theorem blockStepsMoveAtMostOneStreamByte : Obligations.BlockStepsMoveAtMostOneStreamByte := by
  intro s t h
  obtain ⟨-, hturn⟩ := step_cases h
  obtain ⟨henc, hdec, -, hsinkLog, hsrcRest, -⟩ := nextTurn_same s
  obtain ⟨hsinkObj, hsrcObj⟩ := step_keeps_binding h
  have hsink := runTurn_sinkLog hturn
  have hsrc := runTurn_srcRest hturn
  rw [henc, hsinkLog] at hsink
  rw [hdec, hsrcRest] at hsrc
  exact ⟨hsinkObj, hsrcObj, hsink, hsrc⟩

/-! ## Shared streams (R62, R207) -/

/-- Settles O55: each refusal is the test its operation makes first. -/
theorem sharedStreamsAreRefused : Obligations.SharedStreamsAreRefused :=
  ⟨fun _ hobj => if_pos hobj, fun _ _ hs => if_pos hs, fun _ _ hs => if_pos hs, fun _ _ hshared => if_neg hshared⟩

end Sys2Proof.Machine
end

section
/-! SUPPORT. Proofs of the statements about the encoding (30_encoding.md): O4, O2, O1, O3, O57. -/

namespace Sys2Proof

/-! ## The two fields of a command word (R73, R77) -/

/-- A word is its op field over its value field (R73). -/
theorem cmdWord_fields (w : CmdWord) : cmdWord (opField w) (valueField w) = w := by
  unfold cmdWord opField valueField
  rw [BitVec.extractLsb'_append_extractLsb'_eq_extractLsb' (by rfl)]
  exact BitVec.extractLsb'_eq_self

/-- The mask of R77 keeps the op field and clears the value field. -/
theorem and_opMask (w : CmdWord) : w &&& 0x70000000000000000#67 = cmdWord (opField w) 0#64 := by
  have hmask : 0x70000000000000000#67 = cmdWord (BitVec.allOnes 3) 0#64 := rfl
  calc w &&& 0x70000000000000000#67
      = cmdWord (opField w) (valueField w) &&& cmdWord (BitVec.allOnes 3) 0#64 := by rw [cmdWord_fields, hmask]
    _ = cmdWord (opField w &&& BitVec.allOnes 3) (valueField w &&& 0#64) := BitVec.and_append
    _ = cmdWord (opField w) 0#64 := by rw [BitVec.and_allOnes, BitVec.and_zero]

/-- A word that matches `op` under the mask of R77 has the op field `op`. -/
theorem opField_of_match {w : CmdWord} {op : BitVec 3} (h : w &&& 0x70000000000000000#67 = cmdWord op 0#64) :
    opField w = op := by
  rw [← opField_cmdWord (opField w) 0#64, ← and_opMask, h, opField_cmdWord]

/-! ## What the decoder selects (R74, R75, R76) -/

/-- A word decodes to the command of its op code; only ENC.START's operand is read from the value field (R74, R75). -/
theorem decode_of_fields {w : CmdWord} {i : Instr} (hop : opField w = opOf i)
    (hvalue : valueOf i = if opOf i = 0b001#3 then valueField w else 0) : decode w = i := by
  cases i with
  | encStart v =>
    have hv : v = valueField w := hvalue
    simp [decode, hop, opOf, hv]
  | nop | encAck | reserved011 | reserved100 | decStart | decAck | reserved111 => simp [decode, hop, opOf]

/-- Outside ENC.START the op field alone selects the command (R75, R76). -/
theorem decode_eq_of_opField_eq {w w' : CmdWord} (hop : opField w = opField w') (hstart : opField w' ≠ 0b001#3) :
    decode w = decode w' := by
  simp only [decode, hop, if_neg hstart]

/-- The op code and the operand of a command's word are the command's own, so it decodes to the command (R73, R74). -/
theorem decode_encode (i : Instr) : decode (encode i) = i := by
  obtain ⟨hop, hvalue⟩ := Laws.WordFields.of_fields i
  refine decode_of_fields hop ?_
  rw [hvalue]
  cases i <;> rfl

/-- The eight op codes (R74). -/
theorem opCode_cases (op : BitVec 3) :
    op = 0b000#3 ∨ op = 0b001#3 ∨ op = 0b010#3 ∨ op = 0b011#3 ∨ op = 0b100#3 ∨ op = 0b101#3 ∨ op = 0b110#3 ∨
      op = 0b111#3 := by
  revert op
  decide

/-- The decoder keeps the op code of a word, keeps its value field for ENC.START and drops it elsewhere (R74, R75;
log 11). -/
theorem fields_of_decode (w : CmdWord) :
    opOf (decode w) = opField w ∧ valueOf (decode w) = if opField w = 0b001#3 then valueField w else 0 := by
  rcases opCode_cases (opField w) with h | h | h | h | h | h | h | h <;> simp [decode, h, opOf, valueOf]

/-! ## The statements about the decoder and the encoder -/

/-- Settles O4: the decoder keeps the op code of a word, and its value field exactly for ENC.START. -/
theorem decodeAndEncodeAgree : Obligations.DecodeAndEncodeAgree := by
  refine ⟨fun i _ => decode_encode i, fun w => ?_⟩
  change encode (decode w) = if opField w = 0b001#3 then w else w &&& 0x70000000000000000#67
  obtain ⟨hop, hvalue⟩ := fields_of_decode w
  rw [encode, hop, hvalue]
  split
  · exact cmdWord_fields w
  · exact (and_opMask w).symm

/-- Settles O2: a match under the mask is the op field, and the op field selects the command. -/
theorem matchMaskSelectsTheCommand : Obligations.MatchMaskSelectsTheCommand := by
  intro w
  have hstart : w.setWidth 64 = valueField w := BitVec.setWidth_eq_extractLsb' (by decide)
  exact
    ⟨fun h => decode_of_fields (opField_of_match (op := 0b000#3) h) rfl,
      fun h => decode_of_fields (opField_of_match (op := 0b001#3) h) hstart,
      fun h => decode_of_fields (opField_of_match (op := 0b010#3) h) rfl,
      fun h => decode_of_fields (opField_of_match (op := 0b011#3) h) rfl,
      fun h => decode_of_fields (opField_of_match (op := 0b100#3) h) rfl,
      fun h => decode_of_fields (opField_of_match (op := 0b101#3) h) rfl,
      fun h => decode_of_fields (opField_of_match (op := 0b110#3) h) rfl,
      fun h => decode_of_fields (opField_of_match (op := 0b111#3) h) rfl⟩

/-- Settles O1: the fields of each word written out are those of its command. -/
theorem writtenOutCommandWordsDecode : Obligations.WrittenOutCommandWordsDecode := by
  refine ⟨?_, ?_, ?_, ?_, ?_, ?_, ?_, ?_, ?_⟩
  all_goals exact decode_of_fields rfl rfl

end Sys2Proof

namespace Sys2Proof.Machine

/-! ## The ignored value bits (R75) -/

/-- Settles O3: the fields of a word `op:value` are `op` and `value`, and outside ENC.START the op field alone selects
the command. -/
theorem ignoredValueBitsChangeNothing : Obligations.IgnoredValueBitsChangeNothing := by
  refine ⟨fun v => decode_encode (.encStart v), fun op v v' s hop => ?_⟩
  have hdecode : decode (cmdWord op v) = decode (cmdWord op v') :=
    decode_eq_of_opField_eq (by rw [opField_cmdWord, opField_cmdWord]) (by rwa [opField_cmdWord])
  exact congrArg (exec · s) hdecode

/-! ## Polls and pseudo-instructions (R81) -/

/-- A poll leaves the state alone when its condition holds, and otherwise stands first in the script again (R81;
log 19). -/
theorem hostPoll_of_iff {ended : Bool} {p : Prop} [Decidable p] (h : ended = true ↔ p) (poll : HostItem) (s : State) :
    hostPoll ended poll s = .next (if p then s else { s with script := poll :: s.script }) := by
  simp only [hostPoll, h, State.setScript]

/-- The guarded read is the read of DEC_RESULT in DONE and nothing elsewhere (R81; log 19). -/
theorem hostAct_readResultIfDone (s : State) :
    hostAct .readResultIfDone s = if s.dec.state = .done then hostAct .readResult s else .next s := by
  simp only [hostAct, decDone_iff]

/-- ENCODE is the word of ENC.START, the poll, and ENC.ACK (R81). -/
theorem assemble_encode_of_encStart {imm : Int} {w : HostItem} (h : assemble (.encStart imm) = some [w]) :
    assemble (.encode imm) = some [w, .waitEnc, .present (encode .encAck)] := by
  have hstart : assembleStart imm = some w := by simpa [assemble] using h
  simp [assemble, hstart]

/-- Settles O57: each poll's condition and the guard are the engine's state, and each expansion is its lines' words. -/
theorem pollsAndPseudoInstructions : Obligations.PollsAndPseudoInstructions :=
  ⟨fun s => ⟨hostPoll_of_iff (encEnded_iff s) .waitEnc s, hostPoll_of_iff (decEnded_iff s) .waitDec s,
    hostAct_readResultIfDone s⟩, fun _ _ h => assemble_encode_of_encStart h, rfl⟩

end Sys2Proof.Machine
end

section
/-! SUPPORT. Proofs of the statements about the commands (40_command.md): O17, O18, O19, O8, O13, O14. -/

namespace Sys2Proof.Machine

/-! ## A command that is not admissible (R92, R97) -/

/-- A command that is not admissible is the illegal-command event (R92). -/
theorem exec_of_not_admissible {i : Instr} {s : State} (hadm : admissible i s = false) :
    exec i s = .next (s.raise .cmdIllegal) := by
  rw [exec_eq_accept, accept, hadm]
  rfl

/-- The illegal-command event is the spec's model fault CmdIllegal (R92, R175; log 22). -/
theorem specOutcome_raise_cmdIllegal (s : State) : specOutcome (.next (s.raise .cmdIllegal)) = .fault .cmdIllegal :=
  specOutcome_of_specFault ((specFault_cmdIllegal_iff _).2 rfl)

/-- What R92 says holds of every command that is not admissible. -/
theorem illegalAt_of_not_admissible {i : Instr} {s : State} (hadm : admissible i s = false) : IllegalAt i s := by
  have hexec := exec_of_not_admissible hadm
  have hfault : specOutcome (exec i s) = .fault .cmdIllegal := hexec ▸ specOutcome_raise_cmdIllegal s
  refine ⟨fun t ht => ?_, fun _ _ => hfault, fun t ht => ?_⟩
  · rw [hfault] at ht
    cases ht
  · have hsame := exec_sameOutside ht
    rw [hexec] at ht
    cases ht
    exact ⟨rfl, rfl, rfl, hsame⟩

/-- Settles O13: each reserved code is its command's op code, and the table admits that command nowhere. -/
theorem reservedCodesAreNeverAdmissible : Obligations.ReservedCodesAreNeverAdmissible :=
  fun _ v =>
    ⟨decode_of_fields (opField_cmdWord _ v) rfl, illegalAt_of_not_admissible rfl,
      decode_of_fields (opField_cmdWord _ v) rfl, illegalAt_of_not_admissible rfl,
      decode_of_fields (opField_cmdWord _ v) rfl, illegalAt_of_not_admissible rfl⟩

/-- Settles O8: NOP is always admitted with no effect, and its op code alone selects it. -/
theorem nopChangesNothing : Obligations.NopChangesNothing :=
  fun _ => ⟨rfl, fun v => decode_of_fields (opField_cmdWord _ v) rfl⟩

/-! ## The sticky bit (R28, R91, R92) -/

/-- A command sets the sticky bit and the mark of CmdIllegal exactly when it is not admissible, and clears neither (R28,
R92; log 1). -/
theorem exec_illegalBits {i : Instr} {s t : State} (h : exec i s = .next t) :
    t.cmdIllegal = (s.cmdIllegal || !admissible i s) ∧ t.faulted = (s.faulted || !admissible i s) := by
  rw [exec_eq_accept] at h
  rcases accept_cases h with ⟨hadm, ho⟩ | ⟨hadm, ho⟩ <;> cases ho
  · cases i <;> simp [hadm]
  · simp [hadm]

/-- An action of the host does not clear the sticky bit (R28, R55). -/
theorem hostAct_keeps_cmdIllegal {i : HostItem} {s t : State} (h : hostAct i s = .next t) (hs : s.cmdIllegal = true) :
    t.cmdIllegal = true := by
  rcases hostAct_cases h with ⟨w, -, ho⟩ | ⟨-, -, ho⟩ | ⟨-, -, ho⟩ | ⟨-, l, ho⟩
  · obtain ⟨hbit, -⟩ := exec_illegalBits ho.symm
    simp [hbit, hs]
  · cases ho
    exact hs
  · cases ho
  · cases ho
    exact hs

/-- No turn but reset clears the sticky bit (R28). -/
theorem runTurn_keeps_cmdIllegal {u : Turn} {s t : State} (h : runTurn u s = .next t) (hu : u ≠ .reset)
    (hs : s.cmdIllegal = true) : t.cmdIllegal = true := by
  rcases runTurn_cases h with ⟨-, h⟩ | ⟨a, -, h⟩ | ⟨m, -, h⟩ | ⟨hreset, -⟩ | ⟨bs, -, -, rfl⟩ | ⟨l, -, -, rfl⟩
  · obtain ⟨-, -, hbit, -⟩ := nextItem_same s
    exact hostAct_keeps_cmdIllegal h (hbit.trans hs)
  · rw [encEmit_withEncPart h]
    exact hs
  · rw [decRead_withDecPart h]
    exact hs
  · exact absurd hreset hu
  · exact hs
  · exact hs

/-- Settles O14: the illegal-command event, and the turns that keep the sticky bit. -/
theorem inadmissibleCommandsAreIgnored : Obligations.InadmissibleCommandsAreIgnored := by
  refine ⟨fun _ _ => illegalAt_of_not_admissible, fun s t hs h hreset => ?_⟩
  obtain ⟨-, -, hbit, -⟩ := nextTurn_same s
  exact runTurn_keeps_cmdIllegal (step_cases h).2 hreset (hbit.trans hs)

/-! ## No command touches a busy engine (R91) -/

/-- In EMITTING the encoder's registers stay, or the turn is the sink's answer or reset (R24, R91). -/
theorem EncMove.of_emitting {u : Turn} {i : HostItem} {e e' : EncEngine} (h : EncMove u i e e')
    (hs : e.state = .emitting) : e' = e ∨ (∃ a, u = .sink a) ∨ u = .reset := by
  cases h with
  | stay => exact .inl rfl
  | accepted hu | rejected hu => exact .inr (.inl ⟨_, hu⟩)
  | reset hu => exact .inr (.inr hu)
  | started _ _ _ _ _ hidle => simp [hs] at hidle
  | acked _ _ _ _ hended => simp [hs] at hended

/-- In ACCUMULATING the decoder's registers stay, or the turn is the source's answer or reset (R25, R91). -/
theorem DecMove.of_accumulating {u : Turn} {i : HostItem} {d d' : DecEngine} (h : DecMove u i d d')
    (hs : d.state = .accumulating) : d' = d ∨ (∃ m, u = .source m) ∨ u = .reset := by
  cases h with
  | stay => exact .inl rfl
  | combined _ hu | overflowed hu | starved _ hu => exact .inr (.inl ⟨_, hu⟩)
  | reset hu => exact .inr (.inr hu)
  | started _ _ _ _ hidle => simp [hs] at hidle
  | acked _ _ _ _ hended => simp [hs] at hended

/-- A command leaves an encoder in EMITTING as it was (R91). -/
theorem exec_keeps_emitting {i : Instr} {s t : State} (h : exec i s = .next t) (hs : s.enc.state = .emitting) :
    t.enc = s.enc := by
  rw [← decode_encode i] at h
  exact ((exec_encMove h).of_emitting hs).resolve_right nofun

/-- A command leaves a decoder in ACCUMULATING as it was (R91). -/
theorem exec_keeps_accumulating {i : Instr} {s t : State} (h : exec i s = .next t)
    (hs : s.dec.state = .accumulating) : t.dec = s.dec := by
  rw [← decode_encode i] at h
  exact ((exec_decMove h).of_accumulating hs).resolve_right nofun

/-- Settles O17: from a clear sticky bit the bit says whether the table admitted the command. -/
theorem admissibilityTable : Obligations.AdmissibilityTable := by
  refine fun i s t h => ⟨fun hclear => ?_, exec_keeps_emitting h, exec_keeps_accumulating h⟩
  obtain ⟨hbit, -⟩ := exec_illegalBits h
  rw [hbit, hclear]
  cases i <;> simp [admissible, or_iff_not_imp_left]

/-! ## The engine a command addresses (R94) -/

/-- A command with op[2] = 0 leaves the decoder as it was (R94). -/
theorem exec_keeps_decoder {i : Instr} {s t : State} (hop : (opOf i).getLsbD 2 = false) (h : exec i s = .next t) :
    t.dec = s.dec := by
  rw [exec_eq_accept] at h
  rcases accept_cases h with ⟨-, ho⟩ | ⟨-, ho⟩ <;> cases ho
  · cases i with
    | decStart | decAck => simp [opOf] at hop
    | nop | encStart | encAck | reserved011 | reserved100 | reserved111 => rfl
  · rfl

/-- A command with op[2] = 1 leaves the encoder as it was (R94). -/
theorem exec_keeps_encoder {i : Instr} {s t : State} (hop : (opOf i).getLsbD 2 = true) (h : exec i s = .next t) :
    t.enc = s.enc := by
  rw [exec_eq_accept] at h
  rcases accept_cases h with ⟨-, ho⟩ | ⟨-, ho⟩ <;> cases ho
  · cases i with
    | encStart | encAck => simp [opOf] at hop
    | nop | decStart | decAck | reserved011 | reserved100 | reserved111 => rfl
  · rfl

/-- Whether a command with op[2] = 0 is admissible is read off the encoder alone (R91, R94). -/
theorem admissible_eq_of_enc_eq {i : Instr} {s s' : State} (hop : (opOf i).getLsbD 2 = false) (henc : s'.enc = s.enc) :
    admissible i s' = admissible i s := by
  cases i with
  | decStart | decAck => simp [opOf] at hop
  | nop | encStart | encAck | reserved011 | reserved100 | reserved111 => simp only [admissible, henc]

/-- Whether a command with op[2] = 1 is admissible is read off the decoder alone (R91, R94). -/
theorem admissible_eq_of_dec_eq {i : Instr} {s s' : State} (hop : (opOf i).getLsbD 2 = true) (hdec : s'.dec = s.dec) :
    admissible i s' = admissible i s := by
  cases i with
  | encStart | encAck => simp [opOf] at hop
  | nop | decStart | decAck | reserved011 | reserved100 | reserved111 => simp only [admissible, hdec]

/-- Two states that agree on what admits a command, on what its effect writes to a part `p` and on `p` itself agree on
`p` after the command (R90, R92). -/
theorem accept_part_eq {α : Type} (p : State → α) {i : Instr} {f : State → State} {s s' t t' : State}
    (hadm : admissible i s' = admissible i s) (heffect : p (f s') = p (f s))
    (hraise : p (s'.raise .cmdIllegal) = p (s.raise .cmdIllegal))
    (h : accept i f s = .next t) (h' : accept i f s' = .next t') : p t' = p t := by
  unfold accept at h h'
  rw [hadm] at h'
  split at h
  · next hc =>
    rw [if_pos hc] at h'
    cases h
    cases h'
    exact heffect
  · next hc =>
    rw [if_neg hc] at h'
    cases h
    cases h'
    exact hraise

/-- What a command with op[2] = 0 does to the encoder is read off the encoder alone (R94). -/
theorem exec_enc_eq {i : Instr} {s s' t t' : State} (hop : (opOf i).getLsbD 2 = false) (henc : s'.enc = s.enc)
    (h : exec i s = .next t) (h' : exec i s' = .next t') : t'.enc = t.enc := by
  rw [exec_eq_accept] at h h'
  refine accept_part_eq State.enc (admissible_eq_of_enc_eq hop henc) ?_ henc h h'
  cases i <;> simp [henc]

/-- What a command with op[2] = 1 does to the decoder is read off the decoder alone (R94). -/
theorem exec_dec_eq {i : Instr} {s s' t t' : State} (hop : (opOf i).getLsbD 2 = true) (hdec : s'.dec = s.dec)
    (h : exec i s = .next t) (h' : exec i s' = .next t') : t'.dec = t.dec := by
  rw [exec_eq_accept] at h h'
  refine accept_part_eq State.dec (admissible_eq_of_dec_eq hop hdec) ?_ hdec h h'
  cases i <;> simp [hdec]

/-- What a command does to the sticky bit depends on the bit and on whether the command is admissible (R92). -/
theorem exec_cmdIllegal_eq {i : Instr} {s s' t t' : State} (hadm : admissible i s' = admissible i s)
    (hbit : s'.cmdIllegal = s.cmdIllegal) (h : exec i s = .next t) (h' : exec i s' = .next t') :
    t'.cmdIllegal = t.cmdIllegal := by
  rw [(exec_illegalBits h).1, (exec_illegalBits h').1, hadm, hbit]

/-- Settles O18: the addressed engine alone decides admissibility and the effect. -/
theorem commandsAddressOneEngine : Obligations.CommandsAddressOneEngine :=
  fun _ _ _ _ _ h h' =>
    ⟨fun hop henc hbit => ⟨exec_keeps_decoder hop h, exec_enc_eq hop henc h h',
        exec_cmdIllegal_eq (admissible_eq_of_enc_eq hop henc) hbit h h'⟩,
      fun hop hdec hbit => ⟨exec_keeps_encoder hop h, exec_dec_eq hop hdec h h',
        exec_cmdIllegal_eq (admissible_eq_of_dec_eq hop hdec) hbit h h'⟩⟩

/-! ## The frame of every command (R90, R94) -/

/-- ENC.ACK holds the encoder's datapath registers, admissible or not (R108). -/
theorem encAck_holds_registers {s t : State} (h : exec .encAck s = .next t) :
    t.enc.rem = s.enc.rem ∧ t.enc.count = s.enc.count := by
  rcases accept_cases h with ⟨-, ho⟩ | ⟨-, ho⟩ <;> cases ho <;> exact ⟨rfl, rfl⟩

/-- DEC.ACK holds the decoder's datapath registers, admissible or not (R138). -/
theorem decAck_holds_registers {s t : State} (h : exec .decAck s = .next t) :
    t.dec.acc = s.dec.acc ∧ t.dec.shift = s.dec.shift := by
  rcases accept_cases h with ⟨-, ho⟩ | ⟨-, ho⟩ <;> cases ho <;> exact ⟨rfl, rfl⟩

/-- A command that is not admissible leaves both engines as they were (R92). -/
theorem exec_keeps_engines_of_not_admissible {i : Instr} {s t : State} (hadm : admissible i s = false)
    (h : exec i s = .next t) : t.enc = s.enc ∧ t.dec = s.dec := by
  obtain ⟨-, -, hignored⟩ := illegalAt_of_not_admissible hadm
  obtain ⟨-, henc, hdec, -⟩ := hignored t h
  exact ⟨henc, hdec⟩

/-- Settles O19: what no command touches, the two bits none clears, and for each command the engines it leaves. -/
theorem commandFrame : Obligations.CommandFrame := by
  intro i s t h
  obtain ⟨hbit, hmark⟩ := exec_illegalBits h
  refine ⟨exec_sameOutside h, fun hs => by simp [hbit, hs], fun hs => by simp [hmark, hs], ?_⟩
  cases i with
  | nop =>
    cases h
    rfl
  | encStart v => exact exec_keeps_decoder (by simp [opOf]) h
  | encAck => exact ⟨exec_keeps_decoder rfl h, encAck_holds_registers h⟩
  | decStart => exact exec_keeps_encoder rfl h
  | decAck => exact ⟨exec_keeps_encoder rfl h, decAck_holds_registers h⟩
  | reserved011 | reserved100 | reserved111 => exact exec_keeps_engines_of_not_admissible rfl h

end Sys2Proof.Machine
end

section
/-! SUPPORT. Proofs of the statements about the encoder (41_encode.md): O21, O25, O26, O27, O36, O20, O9, O10, O23, O22. -/

namespace Sys2Proof.Machine

/-! ## The datapath as arithmetic (R101 to R105) -/

/-- The byte offered as a number: the low seven bits, with 128 added unless the remaining value is below 128 (R107). -/
theorem emitByte_toNat (r : Value) : (emitByte r).toNat = r.toNat % 128 + if r.toNat < 128 then 0 else 128 := by
  rw [emitByte, contMux_toNat, encGroup_toNat, Nat.add_comm]
  simp only [isLast_iff]

/-- Settles O21: each element's own arithmetic; a shifted value is zero exactly below 128. -/
theorem emitDatapathArithmetic : Obligations.EmitDatapathArithmetic := by
  refine fun r => ⟨encGroup_toNat r, remNext_toNat r, ?_, fun g => ⟨?_, ?_⟩, emitByte_toNat r⟩
  · rw [isLast_iff, Nat.div_eq_zero_iff_lt (by decide)]
  · simp [contMux_toNat]
  · simp [contMux_toNat, Nat.add_comm]

/-! ## The length of an encoding (R112) -/

/-- A value's bit length is the least number of bits that hold it (R13). -/
theorem bitlen_le_iff (v : Value) (n : Nat) : bitlen v ≤ n ↔ v.toNat < 2 ^ n := by
  unfold bitlen
  split
  · next hv => simp [hv]
  · next hv =>
    have h0 : v.toNat ≠ 0 := fun h0 => hv (BitVec.eq_of_toNat_eq h0)
    rw [Nat.succ_le_iff, Nat.log2_lt h0]

/-- `k` bytes are enough exactly for the values of `7k` bits (R112). -/
theorem encLength_le_iff (v : Value) {k : Nat} (hk : 1 ≤ k) : encLength v ≤ k ↔ v.toNat < 2 ^ (7 * k) := by
  rw [← bitlen_le_iff, encLength]
  omega

/-- No encoding is longer than LMAX = 10 bytes (R6, R112). -/
theorem encLength_le_ten (v : Value) : encLength v ≤ 10 :=
  (encLength_le_iff v (by decide)).2 (Nat.lt_of_lt_of_le v.isLt (by decide))

/-- The values that take ten bytes are those from 2^63 on (R112). -/
theorem encLength_eq_ten_iff (v : Value) : encLength v = 10 ↔ 2 ^ 63 ≤ v.toNat := by
  have hle := encLength_le_ten v
  have hnine := encLength_le_iff v (k := 9) (by decide)
  omega

/-- Settles O25: the rows are `encLength_le_iff`, and bit 63 is set exactly from 2^63 on. -/
theorem encodedLengthTable : Obligations.EncodedLengthTable := by
  refine fun v => ⟨encLength_pos v, encLength_le_ten v, rfl, fun k hk _ => encLength_le_iff v hk, ?_⟩
  rw [encLength_eq_ten_iff, ← BitVec.msb_eq_getLsbD_last, BitVec.msb_eq_decide, decide_eq_true_iff]

/-! ## The bytes of an encoding (R113 to R115) -/

/-- `Enc(v)` has `L(v)` bytes (R116). -/
@[simp] theorem encBytes_length (v : Value) : (encBytes v).length = encLength v := by
  simp [encBytes]

/-- The bytes of `Enc(v)` by their place (R113, R116). -/
theorem encBytes_getElem? {v : Value} {i : Nat} (hi : i < encLength v) : (encBytes v)[i]? = some (encByteAt v i) := by
  simp [encBytes, hi]

/-- Byte `i` of an encoding is its continuation flag over the `i`-th group (R105, R113). -/
theorem encByteAt_eq_contMux (v : Value) (i : Nat) :
    encByteAt v i = contMux (!decide (i < encLength v - 1)) (encGroup (v >>> (7 * i))) :=
  groupByte_eq_contMux (v >>> (7 * i)) (i < encLength v - 1)

/-- Bit 7 of a byte is the continuation flag (R105). -/
theorem contMux_getLsbD_seven (last : Bool) (g : Group) : (contMux last g).getLsbD 7 = !last := by
  have hg := g.isLt
  have hmsb : (contMux last g).msb = !last := by
    rw [BitVec.msb_eq_decide, contMux_toNat]
    cases last
    · simp
    · simpa using hg
  rwa [BitVec.msb_eq_getLsbD_last] at hmsb

/-- Settles O26: bit 7 of byte `i` is its continuation flag, set on every byte but the last. -/
theorem continuationBitOfEveryByte : Obligations.ContinuationBitOfEveryByte := by
  refine fun v => ⟨encBytes_length v, fun i b hb => ?_⟩
  have hi : i < encLength v := encBytes_length v ▸ (List.getElem?_eq_some_iff.1 hb).1
  rw [encBytes_getElem? hi, Option.some.injEq] at hb
  rw [← hb, encByteAt_eq_contMux, contMux_getLsbD_seven, Bool.not_not, decide_eq_true_iff]
  omega

/-- The group of a tenth byte is the value's top bit, and its flag is clear (R115). -/
theorem encByteAt_nine {v : Value} (h : encLength v = 10) : encByteAt v 9 = 0x01#8 := by
  have hge := (encLength_eq_ten_iff v).1 h
  have hlt := v.isLt
  apply BitVec.eq_of_toNat_eq
  rw [encByteAt_eq_contMux, contMux_toNat, encGroup_toNat, BitVec.toNat_ushiftRight, Nat.shiftRight_eq_div_pow, h]
  change 0 + v.toNat / 2 ^ 63 % 128 = 1
  omega

/-- Settles O27: a tenth byte is there exactly from 2^63 on, where its group is 1. -/
theorem tenthByteIsOne : Obligations.TenthByteIsOne := by
  refine ⟨fun v h => ⟨(encLength_eq_ten_iff v).1 h, ?_⟩, by decide⟩
  rw [encBytes_getElem? (by omega), encByteAt_nine h]

/-! ## Decoded values are bounded by the bytes consumed (R117, R133, R147) -/

/-- A shift below SHIFT_LIMIT = 64 fits the seven bits of the shift counter (R6, R23). -/
theorem shiftOfNat_toNat {sh : Nat} (h : sh < 64) : (BitVec.ofNat 7 sh).toNat = sh :=
  Nat.mod_eq_of_lt (by omega)

/-- One byte combined by the loop of `Dec` is one use of the decoder's combiner (R132, R133, R147). -/
theorem decLoop_combine (acc : Value) (b : Byte) {sh : Nat} (hsh : sh < 64) :
    acc ||| ((b &&& 0x7F#8).setWidth 64 <<< sh) = accNext acc (byteGroup b) (BitVec.ofNat 7 sh) := by
  have hgroup : (b &&& 0x7F#8).setWidth 64 = zext64 (byteGroup b) := by
    apply BitVec.eq_of_toNat_eq
    have hand : (b &&& 0x7F#8).toNat = b.toNat % 128 := Nat.and_two_pow_sub_one_eq_mod b.toNat 7
    simp only [zext64, byteGroup, BitVec.toNat_setWidth, BitVec.extractLsb'_toNat, hand]
    omega
  rw [accNext, hgroup, shiftOfNat_toNat hsh]

/-- A loop of `Dec` that ends well after `n` bytes consumes one more at least, and its value fits the groups of all bytes
consumed (R36, R147). -/
theorem decLoop_ok_lt {l : List Byte} {acc v : Value} {n k : Nat} (hacc : acc.toNat < 2 ^ min 64 (7 * n))
    (h : decLoop acc (7 * n) n l = .ok v k) : n < k ∧ v.toNat < 2 ^ min 64 (7 * k) := by
  induction l generalizing acc n with
  | nil => cases h
  | cons b rest ih =>
    rw [decLoop] at h
    split at h
    · cases h
    · next hsh =>
      have hlt : 7 * n < 64 := Nat.lt_of_not_le hsh
      have hshift := shiftOfNat_toNat hlt
      have hnext := accNext_lt acc (byteGroup b) (BitVec.ofNat 7 (7 * n)) (by rwa [hshift])
      rw [hshift] at hnext
      rw [decLoop_combine acc b hlt] at h
      split at h
      · obtain ⟨hk, hv⟩ := ih (n := n + 1) hnext h
        exact ⟨by omega, hv⟩
      · cases h
        exact ⟨Nat.lt_succ_self n, hnext⟩

/-- A value decoded from `k` bytes has at most `7k` bits (R117). -/
theorem decBytes_ok_lt {l : List Byte} {v : Value} {k : Nat} (h : decBytes l = .ok v k) :
    1 ≤ k ∧ v.toNat < 2 ^ (7 * k) := by
  obtain ⟨hk, hv⟩ := decLoop_ok_lt (acc := 0) (n := 0) (by decide) h
  exact ⟨hk, Nat.lt_of_lt_of_le hv (Nat.pow_le_pow_right (by decide) (Nat.min_le_right _ _))⟩

/-- Settles O36: a value decoded from `k` bytes has at most `7k` bits, and so `k` bytes are enough to encode it. -/
theorem minimalLength : Obligations.MinimalLength := by
  intro l v k h
  obtain ⟨hk, hv⟩ := decBytes_ok_lt h
  exact ⟨encBytes_length v ▸ (encLength_le_iff v hk).2 hv, fun _ => hv⟩

/-! ## One ENC.EMIT (R107, R109) -/

/-- With its remaining value held, an ENC.EMIT in EMITTING is the offer of one byte and leaves no mark (R107). -/
theorem encEmit_of_held {s : State} {r : Value} (hs : s.enc.state = .emitting) (hrem : s.enc.rem = .of r)
    (a : SinkAnswer) : encEmit a s = .next (encOffer r a s) := by
  rw [encEmit_of_emitting hs, State.noteEncRem_of_held (by rw [hrem]), hrem]

/-- Settles O20: the offer written out for either answer; outside EMITTING nothing is offered. -/
theorem emitWritesOneByte : Obligations.EmitWritesOneByte := by
  refine fun s r => ⟨fun hs hrem => ⟨?_, ?_⟩, fun hs a t h => ?_⟩
  · rw [encEmit_of_held hs hrem, encOffer_accept]
  · rw [encEmit_of_held hs hrem, encOffer_reject]
  · rcases encEmit_cases h with ⟨-, rfl⟩ | ⟨he, -⟩ | ⟨he, -⟩
    · exact ⟨rfl, rfl⟩
    · exact absurd he hs
    · exact absurd he hs

/-! ## The encoder's commands (R106, R108) -/

/-- An admissible command has its effect (R90). -/
theorem accept_of_admissible {i : Instr} {f : State → State} {s : State} (hadm : admissible i s = true) :
    accept i f s = .next (f s) := if_pos hadm

/-- ENC.START from IDLE begins a call (R106). -/
theorem exec_encStart_of_idle {s : State} (hs : s.enc.state = .idle) (v : Value) :
    exec (.encStart v) s = .next (s.setEnc ⟨.emitting, .of v, 0⟩) :=
  accept_of_admissible (f := (·.encBegin v)) (by simp [admissible, hs])

/-- Settles O9: ENC.START is admissible exactly in IDLE. -/
theorem encStartBeginsACall : Obligations.EncStartBeginsACall :=
  fun _ v => ⟨decode_encode (.encStart v), fun hs => exec_encStart_of_idle hs v,
    fun hs => illegalAt_of_not_admissible (by simp [admissible, hs])⟩

/-- Settles O10: ENC.ACK is admissible exactly in DONE and FAILED. -/
theorem encAckEndsACall : Obligations.EncAckEndsACall := by
  refine fun s => ⟨fun v => decode_of_fields (opField_cmdWord _ v) rfl, fun hs => ?_, fun hs => ?_⟩
  · exact accept_of_admissible (by simpa [admissible] using hs)
  · exact illegalAt_of_not_admissible (by rcases hs with hs | hs <;> simp [admissible, hs])

/-! ## A whole encode call (R109, R111, R116) -/

/-- The encoder's registers when `k` bytes of a call that encodes `v` have been accepted (R20, R21, R24). -/
def EncEngine.afterBytes (v : Value) (k : Nat) : EncEngine :=
  ⟨if k < encLength v then .emitting else .done, .of (v >>> (7 * k)), BitVec.ofNat 4 k⟩

/-- Before the last byte of a call is accepted the encoder is EMITTING (R24). -/
theorem afterBytes_of_lt {v : Value} {k : Nat} (hk : k < encLength v) :
    EncEngine.afterBytes v k = ⟨.emitting, .of (v >>> (7 * k)), BitVec.ofNat 4 k⟩ := by
  rw [EncEngine.afterBytes, if_pos hk]

/-- With all `L(v)` bytes accepted the encoder is DONE and nothing is left of the value (R111). -/
theorem afterBytes_encLength (v : Value) :
    EncEngine.afterBytes v (encLength v) = ⟨.done, .of 0, BitVec.ofNat 4 (encLength v)⟩ := by
  have hlt := (encLength_le_iff v (encLength_pos v)).1 (Nat.le_refl _)
  have hrem : v >>> (7 * encLength v) = 0 := by
    apply BitVec.eq_of_toNat_eq
    rw [BitVec.toNat_ushiftRight, Nat.shiftRight_eq_div_pow]
    exact Nat.div_eq_of_lt hlt
  rw [EncEngine.afterBytes, if_neg (Nat.lt_irrefl _), hrem]

/-- The zero detector fires on byte `k` of a call exactly when no byte follows it (R104, R111). -/
theorem isLast_shift (v : Value) (k : Nat) : isLast (v >>> (7 * k)) = !decide (k + 1 < encLength v) := by
  rw [Bool.eq_iff_iff, isLast_iff, BitVec.toNat_ushiftRight, Nat.shiftRight_eq_div_pow,
    Nat.div_lt_iff_lt_mul (by positivity), Nat.mul_comm, show 128 = 2 ^ 7 by rfl, ← Nat.pow_add, ← Nat.mul_succ,
    ← encLength_le_iff v (Nat.succ_pos k)]
  simp

/-- The byte offered at byte `k` of a call is byte `k` of the encoding (R113). -/
theorem emitByte_shift (v : Value) (k : Nat) : emitByte (v >>> (7 * k)) = encByteAt v k := by
  rw [encByteAt_eq_contMux, emitByte, isLast_shift]
  simp only [Nat.lt_sub_iff_add_lt]

/-- An accepted byte takes the registers of a call from byte `k` to byte `k + 1` (R107). -/
theorem afterAccept_afterBytes (v : Value) (k : Nat) :
    (EncEngine.afterBytes v k).afterAccept (v >>> (7 * k)) = EncEngine.afterBytes v (k + 1) := by
  have hrem : remNext (v >>> (7 * k)) = v >>> (7 * (k + 1)) := by
    rw [remNext, ← BitVec.shiftRight_add, Nat.mul_succ]
  rw [EncEngine.afterAccept, isLast_shift, hrem]
  by_cases hmore : k + 1 < encLength v <;> simp [EncEngine.afterBytes, BitVec.ofNat_add, hmore]

/-- The state when `k` bytes of a call that encodes `v`, begun in `s`, have been accepted (R107, R116). -/
def State.afterBytes (s : State) (v : Value) (k : Nat) : State :=
  { s with enc := EncEngine.afterBytes v k, sinkLog := s.sinkLog ++ (encBytes v).take k }

/-- ENC.START from IDLE is a call of which no byte has been accepted yet (R106). -/
theorem exec_encStart_afterBytes {s : State} (hs : s.enc.state = .idle) (v : Value) :
    exec (.encStart v) s = .next (s.afterBytes v 0) := by
  rw [exec_encStart_of_idle hs, State.afterBytes, afterBytes_of_lt (encLength_pos v)]
  simp [State.setEnc]

/-- At byte `k` of a call the sink is offered what remains of the value (R107). -/
theorem encEmit_afterBytes {v : Value} {k : Nat} (hk : k < encLength v) (s : State) (a : SinkAnswer) :
    encEmit a (s.afterBytes v k) = .next (encOffer (v >>> (7 * k)) a (s.afterBytes v k)) := by
  have henc : (s.afterBytes v k).enc = ⟨.emitting, .of (v >>> (7 * k)), BitVec.ofNat 4 k⟩ := afterBytes_of_lt hk
  exact encEmit_of_held (by rw [henc]) (by rw [henc]) a

/-- An accepted offer takes a call from byte `k` to byte `k + 1` (R107). -/
theorem encEmit_accept_afterBytes {v : Value} {k : Nat} (hk : k < encLength v) (s : State) :
    encEmit .accept (s.afterBytes v k) = .next (s.afterBytes v (k + 1)) := by
  have henc : (s.afterBytes v k).enc.afterAccept (v >>> (7 * k)) = EncEngine.afterBytes v (k + 1) :=
    afterAccept_afterBytes v k
  have hlog : (encBytes v).take (k + 1) = (encBytes v).take k ++ [emitByte (v >>> (7 * k))] := by
    rw [List.take_add_one, encBytes_getElem? hk, emitByte_shift]
    rfl
  rw [encEmit_afterBytes hk, encOffer, henc]
  simp only [State.afterBytes, hlog, ← List.append_assoc]
  rfl

/-- A list of the sink's answers is its first part and then its second. -/
theorem emitAll_append (as bs : List SinkAnswer) (s : State) :
    emitAll (as ++ bs) s = andThen (emitAll as s) (emitAll bs) := by
  induction as generalizing s with
  | nil => rfl
  | cons a as ih =>
    rw [List.cons_append, emitAll, emitAll]
    rcases encEmit a s with t | f | r
    · exact ih t
    · rfl
    · rfl

/-- Up to `L(v)` accepted offers each write the call's next byte (R111, R116). -/
theorem emitAll_accepts {v : Value} {k : Nat} (hk : k ≤ encLength v) (s : State) :
    emitAll (List.replicate k .accept) (s.afterBytes v 0) = .next (s.afterBytes v k) := by
  induction k with
  | zero => rfl
  | succ k ih =>
    rw [List.replicate_succ', emitAll_append, ih (Nat.le_of_succ_le hk), andThen, emitAll,
      encEmit_accept_afterBytes hk]
    rfl

/-- An encode call from IDLE after `k` accepted offers, `k` up to `L(v)` (R106, R111). -/
theorem encodeCall_accepts {s : State} (hs : s.enc.state = .idle) {v : Value} {k : Nat} (hk : k ≤ encLength v) :
    andThen (exec (.encStart v) s) (emitAll (List.replicate k .accept)) = .next (s.afterBytes v k) := by
  rw [exec_encStart_afterBytes hs]
  exact emitAll_accepts hk s

/-- Settles O23: the state of the call after `k` bytes, read at `k < L(v)` and at `k = L(v)`. -/
theorem encodeCallAppendsEnc : Obligations.EncodeCallAppendsEnc := by
  refine fun s v hs => ⟨fun k hk => ⟨v >>> (7 * k), ?_⟩, ?_⟩
  · rw [encodeCall_accepts hs (Nat.le_of_lt hk), State.afterBytes, afterBytes_of_lt hk]
  · rw [encodeCall_accepts hs (Nat.le_refl _), State.afterBytes, afterBytes_encLength,
      List.take_of_length_le (Nat.le_of_eq (encBytes_length v))]

/-- Settles O22: the state of the call after `k` bytes, and the rejected offer, which changes the engine's state only. -/
theorem sinkRejectionKeepsTheBytesAccepted : Obligations.SinkRejectionKeepsTheBytesAccepted := by
  intro s v k hs hk
  refine ⟨.of (v >>> (7 * k)), ?_⟩
  rw [exec_encStart_afterBytes hs, andThen, emitAll_append, emitAll_accepts (Nat.le_of_lt hk), andThen, emitAll,
    encEmit_afterBytes hk, encOffer_reject, State.afterBytes, afterBytes_of_lt hk]
  rfl

end Sys2Proof.Machine
end

section
/-! SUPPORT. Proofs of the statements about the decoder (42_decode.md): O32, O31, O28, O29, O30, O11, O12, O40, O39,
O33, O34, O35, O38, O37. -/

namespace Sys2Proof.Machine

/-! ## The datapath as arithmetic (R133, R134, R143) -/

/-- Settles O32: the top bit of seven is set exactly from 64 on. -/
theorem overflowComparatorIsBitSix : Obligations.OverflowComparatorIsBitSix := by
  refine fun sh => ⟨shiftOverflow_iff sh, ?_⟩
  rw [← BitVec.msb_eq_getLsbD_last, BitVec.msb_eq_decide]
  rfl

/-- A group taken to 64 bits is the same number (R11). -/
theorem zext64_toNat (g : Group) : (zext64 g).toNat = g.toNat := BitVec.toNat_setWidth_of_le (by decide)

/-- The group extractor takes the remainder mod 128 (R132). -/
theorem byteGroup_toNat (b : Byte) : (byteGroup b).toNat = b.toNat % 128 := by
  simp [byteGroup]

/-- Above an accumulator below `2^sh` the combiner's OR is an addition mod 2^64 (R133). -/
theorem or_group_toNat {acc : Value} {sh : Nat} (h : acc.toNat < 2 ^ sh) (g : Group) :
    (acc ||| (zext64 g <<< sh)).toNat = (acc.toNat + g.toNat * 2 ^ sh) % 2 ^ 64 := by
  have hor : acc.toNat ||| g.toNat <<< sh = acc.toNat + g.toNat * 2 ^ sh := by
    rw [Nat.lor_comm, ← Nat.shiftLeft_add_eq_or_of_lt h, Nat.shiftLeft_eq, Nat.add_comm]
  rw [← hor, Nat.or_mod_two_pow, Nat.mod_eq_of_lt acc.isLt, BitVec.toNat_or, BitVec.toNat_shiftLeft, zext64_toNat]

/-- Settles O31: below shift 58 the sum does not reach 2^64. -/
theorem combinerAddsDisjointGroups : Obligations.CombinerAddsDisjointGroups := by
  intro acc g sh hsh hacc
  rw [accNext, or_group_toNat hacc, Nat.mod_eq_of_lt]
  calc acc.toNat + g.toNat * 2 ^ sh.toNat
      < 2 ^ sh.toNat + g.toNat * 2 ^ sh.toNat := Nat.add_lt_add_right hacc _
    _ = (g.toNat + 1) * 2 ^ sh.toNat := by ring
    _ ≤ 2 ^ 7 * 2 ^ 57 := Nat.mul_le_mul g.isLt (Nat.pow_le_pow_right (by decide) hsh)

/-- Shifted by 63, a group is its lowest bit at bit 63 (R143). -/
theorem zext64_shiftLeft_63 (g : Group) :
    zext64 g <<< 63 = if g.getLsbD 0 then 0x8000000000000000#64 else 0#64 := by
  have hbit : g.getLsbD 0 = decide (g.toNat % 2 = 1) := by
    rw [← BitVec.testBit_toNat, Nat.testBit_zero]
  apply BitVec.eq_of_toNat_eq
  rw [BitVec.toNat_shiftLeft, zext64_toNat, Nat.shiftLeft_eq, hbit]
  by_cases hodd : g.toNat % 2 = 1
  · simp only [hodd, decide_true, if_true, BitVec.toNat_ofNat]
    omega
  · simp only [hodd, decide_false, Bool.false_eq_true, if_false, BitVec.toNat_ofNat]
    omega

/-! ## One DEC.READ (R137, R140, R141, R143) -/

/-- A source that fails, or holds nothing, fails the call with STREAM (R137, R139). -/
theorem decRead_starves {m : SourceMove} {s : State} (hs : s.dec.state = .accumulating)
    (hm : m = .fail ∨ s.srcRest = []) :
    decRead m s = .next (s.setDec { s.dec with state := .failed, err := .stream }) := by
  obtain ⟨t, ht⟩ := decRead_next m s
  rcases decRead_cases ht with ⟨hn, -⟩ | ⟨-, -, rfl⟩ | ⟨b, rest, -, rfl, hsrc, -⟩
  · exact absurd hs hn
  · exact ht
  · simp [hsrc] at hm

/-- A byte read at shift 64 or above is consumed and fails the call with OVERFLOW (R137, R140, R141). -/
theorem decRead_serve_overflows {s : State} {b : Byte} {rest : List Byte} (hs : s.dec.state = .accumulating)
    (hsrc : s.srcRest = b :: rest) (hsh : 64 ≤ s.dec.shift.toNat) :
    decRead .serve s = .next ((s.setSrcRest rest).setDec { s.dec with state := .failed, err := .overflow }) := by
  obtain ⟨t, ht⟩ := decRead_next .serve s
  rcases decRead_cases ht with ⟨hn, -⟩ | ⟨-, hm, -⟩ | ⟨c, rest', -, -, hsrc', ⟨-, rfl⟩ | ⟨hlt, -⟩⟩
  · exact absurd hs hn
  · simp [hsrc] at hm
  · cases hsrc.symm.trans hsrc'
    exact ht
  · omega

/-- A byte read below shift 64 into an accumulator that holds a value, written out (R137). -/
theorem decRead_serve_of_held {s : State} {b : Byte} {rest : List Byte} {acc : Value}
    (hs : s.dec.state = .accumulating) (hacc : s.dec.acc = .of acc) (hsrc : s.srcRest = b :: rest)
    (hsh : s.dec.shift.toNat < 64) :
    decRead .serve s = .next { s with
      dec := {
        state := if b.getLsbD 7 then .accumulating else .done
        acc := .of (acc ||| ((b.extractLsb' 0 7).setWidth 64 <<< s.dec.shift.toNat))
        shift := s.dec.shift + 7
        err := s.dec.err }
      srcRest := rest } := by
  rw [decRead_serve_combines hs hsrc hsh, State.noteDecAcc_of_held (by rw [hacc]), hacc]

/-- Settles O28: one lemma for each answer of the source and each side of shift 64. -/
theorem readProcessesOneByte : Obligations.ReadProcessesOneByte := by
  refine fun s b rest acc => ⟨fun hs => ⟨decRead_starves hs (.inl rfl), fun hsrc => decRead_starves hs (.inr hsrc),
    decRead_serve_overflows hs, fun hsrc hsh hacc => decRead_serve_of_held hs hacc hsrc hsh⟩, fun hs m t h => ?_⟩
  rcases decRead_cases h with ⟨-, rfl⟩ | ⟨ha, -⟩ | ⟨_, _, ha, -⟩
  · exact ⟨rfl, rfl⟩
  · exact absurd ha hs
  · exact absurd ha hs

/-- Settles O29: at shift 64 and above a READ step fails by the source's answer, or by the overflow of the byte it
consumed. -/
theorem readComesBeforeTheOverflowCheck : Obligations.ReadComesBeforeTheOverflowCheck := by
  intro s t m hs hsh h
  rcases decRead_cases h with ⟨hn, -⟩ | ⟨-, hm, rfl⟩ | ⟨b, rest, -, rfl, hsrc, ⟨-, rfl⟩ | ⟨hlt, -⟩⟩
  · exact absurd hs hn
  · refine ⟨rfl, nofun, fun _ => ⟨rfl, rfl⟩, fun hserve hne => ?_⟩
    simp [hserve, hne] at hm
  · exact ⟨rfl, fun _ => ⟨rfl, b, hsrc⟩, by simp [hsrc], fun _ _ => rfl⟩
  · omega

/-- Settles O30: the shifted group is the byte's bit 0 at bit 63; the examples are evaluated. -/
theorem tenthByteTruncation : Obligations.TenthByteTruncation := by
  refine ⟨fun s b rest acc hs hsh hacc hsrc => ?_, by decide, by decide, by decide⟩
  have hgroup : (b.extractLsb' 0 7).setWidth 64 <<< (63#7).toNat =
      if b.getLsbD 0 then 0x8000000000000000#64 else 0#64 := by
    have hbit : (byteGroup b).getLsbD 0 = b.getLsbD 0 := by simp [byteGroup]
    exact hbit ▸ zext64_shiftLeft_63 (byteGroup b)
  rw [decRead_serve_of_held hs hacc hsrc (by rw [hsh]; decide), hsh]
  simp only [BitVec.ofNat_eq_ofNat, hgroup]
  rcases b.getLsbD 0 <;> simp

/-! ## The decoder's commands (R136, R138) -/

/-- DEC.START from IDLE begins a call (R136). -/
theorem exec_decStart_of_idle {s : State} (hs : s.dec.state = .idle) :
    exec .decStart s = .next (s.setDec ⟨.accumulating, .of 0, 0, .none⟩) :=
  accept_of_admissible (f := State.decBegin) (by simp [admissible, hs])

/-- Settles O11: DEC.START is admissible exactly in IDLE. -/
theorem decStartBeginsACall : Obligations.DecStartBeginsACall :=
  fun _ => ⟨fun v => decode_of_fields (opField_cmdWord _ v) rfl, exec_decStart_of_idle,
    fun hs => illegalAt_of_not_admissible (by simp [admissible, hs])⟩

/-- Settles O12: DEC.ACK is admissible exactly in DONE and FAILED, and in IDLE the result is not readable. -/
theorem decAckEndsACall : Obligations.DecAckEndsACall := by
  refine fun s => ⟨fun v => decode_of_fields (opField_cmdWord _ v) rfl, fun hs => ?_, fun hs => ?_⟩
  · have hexec : exec .decAck s = .next s.decReturn := accept_of_admissible (by simpa [admissible] using hs)
    refine ⟨hexec, fun t ht => ?_⟩
    cases hexec.symm.trans ht
    exact ⟨rfl, rfl⟩
  · exact illegalAt_of_not_admissible (by rcases hs with hs | hs <;> simp [admissible, hs])

/-! ## Calls end (R153, R208, R211, R212) -/

/-- A run of engine steps counts down: where every step goes on and takes `Live (n + 1)` to `Live n`, a list of answers
for which `Live` holds at its length runs through to `Live 0`. -/
theorem run_counts_down {α : Type} {one : α → State → Outcome} {all : List α → State → Outcome}
    {Live : Nat → State → Prop} (hnil : ∀ s, all [] s = .next s)
    (hcons : ∀ a as s, all (a :: as) s = andThen (one a s) (all as))
    (hone : ∀ a s n, Live (n + 1) s → ∃ t, one a s = .next t ∧ Live n t) {as : List α} {s : State}
    (hs : Live as.length s) : ∃ t, all as s = .next t ∧ Live 0 t := by
  induction as generalizing s with
  | nil => exact ⟨s, hnil s, hs⟩
  | cons a as ih =>
    obtain ⟨u, hu, hlive⟩ := hone a s as.length hs
    rw [hcons, hu]
    exact ih hlive

/-- The encoder keeps its invariants and has ended its call, or is emitting and `n` answers take it past its ten bytes
(R35, R153). -/
def EncEndsWithin (n : Nat) (s : State) : Prop :=
  s.enc.Inv ∧ (s.enc.state = .done ∨ s.enc.state = .failed ∨ s.enc.state = .emitting ∧ 10 ≤ s.enc.count.toNat + n)

/-- Each answer of the sink uses up one of them (R107, R109). -/
theorem encEmit_endsWithin (a : SinkAnswer) (s : State) (n : Nat) (h : EncEndsWithin (n + 1) s) :
    ∃ t, encEmit a s = .next t ∧ EncEndsWithin n t := by
  obtain ⟨hinv, hstate⟩ := h
  obtain ⟨t, ht⟩ := encEmit_next a s
  refine ⟨t, ht, (runTurn_encMove (u := .sink a) ht).inv hinv, ?_⟩
  rcases encEmit_cases ht with ⟨hn, rfl⟩ | ⟨hs, -, rfl⟩ | ⟨-, -, rfl⟩
  · simpa [hn] using hstate
  · obtain ⟨-, hemit, -⟩ := hinv
    have hcount := count_succ_toNat (hemit hs).1
    have hleft : 10 ≤ s.enc.count.toNat + (n + 1) := by simpa [hs] using hstate
    rcases hlast : isLast s.enc.rem.bits with _ | _
    · refine .inr (.inr ⟨by simp [EncEngine.afterAccept, hlast], ?_⟩)
      simp only [State.setEnc_enc, EncEngine.afterAccept]
      omega
    · exact .inl (by simp [EncEngine.afterAccept, hlast])
  · exact .inr (.inl rfl)

/-- The decoder keeps its invariants and has ended its call, or is accumulating and `n` answers take it past the shift
70 (R36, R153). -/
def DecEndsWithin (n : Nat) (s : State) : Prop :=
  s.dec.Inv ∧
  (s.dec.state = .done ∨ s.dec.state = .failed ∨ s.dec.state = .accumulating ∧ 77 ≤ s.dec.shift.toNat + 7 * n)

/-- Each answer of the source uses up one of them (R137). -/
theorem decRead_endsWithin (m : SourceMove) (s : State) (n : Nat) (h : DecEndsWithin (n + 1) s) :
    ∃ t, decRead m s = .next t ∧ DecEndsWithin n t := by
  obtain ⟨hinv, hstate⟩ := h
  obtain ⟨t, ht⟩ := decRead_next m s
  refine ⟨t, ht, (runTurn_decMove (u := .source m) ht).inv hinv, ?_⟩
  rcases decRead_cases ht with ⟨hn, rfl⟩ | ⟨-, -, rfl⟩ | ⟨b, rest, hs, -, -, ⟨-, rfl⟩ | ⟨hsh, rfl⟩⟩
  · simpa [hn] using hstate
  · exact .inr (.inl rfl)
  · exact .inr (.inl rfl)
  · have hnext := shiftNext_toNat s.dec.shift (by omega)
    have hleft : 77 ≤ s.dec.shift.toNat + 7 * (n + 1) := by simpa [hs] using hstate
    rcases hcont : contBit b with _ | _
    · exact .inl (by simp [DecEngine.afterByte, hcont])
    · refine .inr (.inr ⟨by simp [DecEngine.afterByte, hcont], ?_⟩)
      simp only [State.setDec_dec, DecEngine.afterByte]
      omega

/-- Settles O40: with no answer left, the invariants rule out a call that is still running. -/
theorem callsEndWithinTheirStepBound : Obligations.CallsEndWithinTheirStepBound := by
  refine ⟨fun s as hinv hs hlen => ?_, fun s ms hinv hs hlen => ?_⟩
  · have hlive : EncEndsWithin as.length s := ⟨(encInv_iff s).1 hinv, .inr (.inr ⟨hs, by omega⟩)⟩
    obtain ⟨t, ht, ⟨-, hemit, -⟩, hend⟩ := run_counts_down (all := emitAll) (fun _ => rfl) (fun _ _ _ => rfl)
      encEmit_endsWithin hlive
    refine ⟨t, ht, hend.imp_right fun h => h.resolve_right fun ⟨hs, hcount⟩ => ?_⟩
    have hle := (hemit hs).1
    omega
  · have hlive : DecEndsWithin ms.length s := ⟨(decInv_iff s).1 hinv, .inr (.inr ⟨hs, by omega⟩)⟩
    obtain ⟨t, ht, ⟨-, hle, -⟩, hend⟩ := run_counts_down (all := readAll) (fun _ => rfl) (fun _ _ _ => rfl)
      decRead_endsWithin hlive
    exact ⟨t, ht, hend.imp_right fun h => h.resolve_right fun ⟨_, hshift⟩ => by omega⟩

/-! ## What `Dec` reads (R147, R148) -/

/-- Byte `n` of a call ORed into the accumulator (R133, R148). -/
def combineByte (acc : Value) (n : Nat) (b : Byte) : Value := acc ||| (zext64 (byteGroup b) <<< (7 * n))

/-- A list of bytes ORed into the accumulator, the first of them as byte `n` of a call (R148). -/
def combineBytes (acc : Value) (n : Nat) (l : List Byte) : Value :=
  ((l.zipIdx n).map fun p => zext64 (byteGroup p.1) <<< (7 * p.2)).foldl (· ||| ·) acc

@[simp] theorem combineBytes_nil (acc : Value) (n : Nat) : combineBytes acc n [] = acc := rfl

@[simp] theorem combineBytes_cons (acc : Value) (n : Nat) (b : Byte) (l : List Byte) :
    combineBytes acc n (b :: l) = combineBytes (combineByte acc n b) (n + 1) l := rfl

theorem combineBytes_concat (acc : Value) (n : Nat) (p : List Byte) (b : Byte) :
    combineBytes acc n (p ++ [b]) = combineByte (combineBytes acc n p) (n + p.length) b := by
  induction p generalizing acc n with
  | nil => rfl
  | cons c p ih =>
    rw [List.cons_append, combineBytes_cons, combineBytes_cons, ih, List.length_cons, Nat.add_assoc, Nat.add_comm 1]

/-- Every byte of the list has its continuation bit set (R131). -/
def Continues (l : List Byte) : Prop := ∀ b ∈ l, contBit b = true

theorem continues_nil : Continues [] := List.forall_mem_nil _

theorem continues_cons {b : Byte} {l : List Byte} : Continues (b :: l) ↔ contBit b = true ∧ Continues l :=
  List.forall_mem_cons

/-- One turn of the loop of `Dec` on byte `n`, up to the tenth: the byte is combined, and the loop goes on or ends with
its continuation bit (R147). -/
theorem decLoop_cons {n : Nat} (hn : n ≤ 9) (acc : Value) (b : Byte) (l : List Byte) :
    decLoop acc (7 * n) n (b :: l) =
      if contBit b then decLoop (combineByte acc n b) (7 * (n + 1)) (n + 1) l
      else .ok (combineByte acc n b) (n + 1) := by
  have hsh : 7 * n < 64 := by omega
  have hcombine : acc ||| ((b &&& 0x7F#8).setWidth 64 <<< (7 * n)) = combineByte acc n b := by
    rw [decLoop_combine acc b hsh, accNext, shiftOfNat_toNat hsh]
    rfl
  rw [decLoop, if_neg (by omega), hcombine]
  rfl

/-- The loop of `Dec` over bytes that continue, up to the tenth (R147). -/
theorem decLoop_continues {p : List Byte} (hp : Continues p) {n : Nat} (hn : n + p.length ≤ 10) (acc : Value)
    (l : List Byte) :
    decLoop acc (7 * n) n (p ++ l) = decLoop (combineBytes acc n p) (7 * (n + p.length)) (n + p.length) l := by
  induction p generalizing acc n with
  | nil => rfl
  | cons b p ih =>
    obtain ⟨hb, hp⟩ := continues_cons.1 hp
    rw [List.length_cons] at hn ⊢
    rw [List.cons_append, decLoop_cons (by omega), if_pos hb, ih hp (by omega), combineBytes_cons,
      Nat.add_right_comm, Nat.add_assoc]

/-- How `Dec` reads a list of bytes: a terminal byte after at most nine that continue, a byte after ten that continue,
or the end of the list after at most ten that continue (R148). -/
inductive DecodesAs (l : List Byte) : DecResult → Prop where
  | ok (p : List Byte) (b : Byte) (rest : List Byte) : l = p ++ b :: rest → Continues p → contBit b = false →
      p.length ≤ 9 → DecodesAs l (.ok (combineBytes 0 0 (p ++ [b])) (p.length + 1))
  | overflow (p : List Byte) (b : Byte) (rest : List Byte) : l = p ++ b :: rest → Continues p → p.length = 10 →
      DecodesAs l (.overflow 11)
  | stream : Continues l → l.length ≤ 10 → DecodesAs l (.stream l.length)

/-- `Dec` answers what it reads (R147). -/
theorem DecodesAs.decBytes_eq {l : List Byte} {r : DecResult} (h : DecodesAs l r) : decBytes l = r := by
  cases h with
  | ok p b rest hl hp hb hlen =>
    rw [hl, decBytes, ← Nat.mul_zero 7, decLoop_continues hp (by omega), Nat.zero_add, decLoop_cons hlen, hb,
      combineBytes_concat, Nat.zero_add]
    rfl
  | overflow p b rest hl hp hlen =>
    rw [hl, decBytes, ← Nat.mul_zero 7, decLoop_continues hp (by omega), hlen]
    rfl
  | stream hl hlen =>
    conv_lhs => rw [decBytes, ← Nat.mul_zero 7, ← List.append_nil l, decLoop_continues hl (by omega), Nat.zero_add]
    rfl

/-- A list of bytes has a first terminal byte before place `m`, or `m` bytes that continue and one after them, or is at
most `m` bytes that continue. -/
theorem continues_cases (m : Nat) (l : List Byte) :
    (∃ p b rest, l = p ++ b :: rest ∧ Continues p ∧ contBit b = false ∧ p.length < m) ∨
    (∃ p b rest, l = p ++ b :: rest ∧ Continues p ∧ p.length = m) ∨
    (Continues l ∧ l.length ≤ m) := by
  induction l generalizing m with
  | nil => exact .inr (.inr ⟨continues_nil, Nat.zero_le m⟩)
  | cons b l ih =>
    rcases m with _ | m
    · exact .inr (.inl ⟨[], b, l, rfl, continues_nil, rfl⟩)
    rcases hb : contBit b with _ | _
    · exact .inl ⟨[], b, l, rfl, continues_nil, hb, Nat.succ_pos m⟩
    rcases ih m with ⟨p, c, rest, rfl, hp, hc, hlen⟩ | ⟨p, c, rest, rfl, hp, hlen⟩ | ⟨hl, hlen⟩
    · exact .inl ⟨b :: p, c, rest, rfl, continues_cons.2 ⟨hb, hp⟩, hc, Nat.succ_lt_succ hlen⟩
    · exact .inr (.inl ⟨b :: p, c, rest, rfl, continues_cons.2 ⟨hb, hp⟩, congrArg (· + 1) hlen⟩)
    · exact .inr (.inr ⟨continues_cons.2 ⟨hb, hl⟩, Nat.succ_le_succ hlen⟩)

/-- The three ways to read a list are all of them, so `Dec` answers exactly what it reads (R148). -/
theorem decBytes_eq_iff {l : List Byte} {r : DecResult} : decBytes l = r ↔ DecodesAs l r := by
  refine ⟨fun h => ?_, DecodesAs.decBytes_eq⟩
  have hex : ∃ r', DecodesAs l r' := by
    rcases continues_cases 10 l with ⟨p, b, rest, hl, hp, hb, hlen⟩ | ⟨p, b, rest, hl, hp, hlen⟩ | ⟨hl, hlen⟩
    · exact ⟨_, .ok p b rest hl hp hb (Nat.le_of_lt_succ hlen)⟩
    · exact ⟨_, .overflow p b rest hl hp hlen⟩
    · exact ⟨_, .stream hl hlen⟩
  obtain ⟨r', hr'⟩ := hex
  rwa [← h, hr'.decBytes_eq]

/-- The bytes up to the terminal one. -/
theorem take_terminal (p : List Byte) (b : Byte) (rest : List Byte) :
    (p ++ b :: rest).take (p.length + 1) = p ++ [b] := by
  simp [List.take_length_add_append]

/-- The bytes after the terminal one. -/
theorem drop_terminal (p : List Byte) (b : Byte) (rest : List Byte) :
    (p ++ b :: rest).drop (p.length + 1) = rest := by
  simp

/-- Settles O39: what was read is the bytes that continue and the terminal byte, whatever follows. -/
theorem noLookahead : Obligations.NoLookahead := by
  intro l t v k h
  cases decBytes_eq_iff.1 h with
  | ok p b rest hl hp hb hlen =>
    have htake : l.take (p.length + 1) ++ t = p ++ b :: t := by
      rw [hl, take_terminal, List.append_assoc, List.singleton_append]
    exact htake ▸ (DecodesAs.ok p b t rfl hp hb hlen).decBytes_eq

/-! ## A whole decode call (R147) -/

/-- The state of a decode call of `s` in which `n` bytes have been combined to `acc` and the source holds `l`. -/
def State.reading (s : State) (acc : Value) (n : Nat) (l : List Byte) : State :=
  { s with dec := ⟨.accumulating, .of acc, BitVec.ofNat 7 (7 * n), .none⟩, srcRest := l }

/-- DEC.START from IDLE is a call of which no byte has been read yet (R136). -/
theorem exec_decStart_reading {s : State} (hs : s.dec.state = .idle) :
    exec .decStart s = .next (s.reading 0 0 s.srcRest) := exec_decStart_of_idle hs

/-- A read of byte `n` of a call, up to the tenth (R137). -/
theorem decRead_reading {n : Nat} (hn : n ≤ 9) (s : State) (acc : Value) (b : Byte) (l : List Byte) :
    decRead .serve (s.reading acc n (b :: l)) = .next { s with
      dec := {
        state := if contBit b then .accumulating else .done
        acc := .of (combineByte acc n b)
        shift := BitVec.ofNat 7 (7 * (n + 1))
        err := .none }
      srcRest := l } := by
  have hshift : (s.reading acc n (b :: l)).dec.shift.toNat = 7 * n := shiftOfNat_toNat (by omega)
  have hnext : (s.reading acc n (b :: l)).dec.shift + 7 = BitVec.ofNat 7 (7 * (n + 1)) := by
    rw [Nat.mul_succ, BitVec.ofNat_add]
    rfl
  rw [decRead_serve_of_held rfl rfl rfl (by omega), hshift, hnext]
  rfl

/-- A list of one move is one READ step. -/
theorem readAll_singleton (m : SourceMove) (s : State) : readAll [m] s = decRead m s := by
  obtain ⟨t, ht⟩ := decRead_next m s
  rw [readAll, ht]
  rfl

/-- A list of the source's moves is its first part and then its second. -/
theorem readAll_append (ms ms' : List SourceMove) (s : State) :
    readAll (ms ++ ms') s = andThen (readAll ms s) (readAll ms') := by
  induction ms generalizing s with
  | nil => rfl
  | cons m ms ih =>
    rw [List.cons_append, readAll, readAll]
    rcases decRead m s with t | f | r
    · exact ih t
    · rfl
    · rfl

/-- Reads of bytes that continue, up to the tenth (R137). -/
theorem readAll_continues {p : List Byte} (hp : Continues p) {n : Nat} (hn : n + p.length ≤ 10) (s : State)
    (acc : Value) (l : List Byte) :
    readAll (List.replicate p.length .serve) (s.reading acc n (p ++ l)) =
      .next (s.reading (combineBytes acc n p) (n + p.length) l) := by
  induction p generalizing acc n with
  | nil => rfl
  | cons b p ih =>
    obtain ⟨hb, hp⟩ := continues_cons.1 hp
    rw [List.length_cons] at hn ⊢
    have hread : decRead .serve (s.reading acc n (b :: (p ++ l))) =
        .next (s.reading (combineByte acc n b) (n + 1) (p ++ l)) := by
      rw [decRead_reading (by omega), if_pos hb]
      rfl
    rw [List.replicate_succ, readAll, List.cons_append, hread, andThen, ih hp (by omega), combineBytes_cons,
      Nat.add_assoc, Nat.add_comm 1]

/-- A decode call from IDLE over bytes that continue, up to ten, ends as the read after them does (R137, R147). -/
theorem decodeCall_continues {s : State} {p l : List Byte} (hs : s.dec.state = .idle) (hsrc : s.srcRest = p ++ l)
    (hp : Continues p) (hlen : p.length ≤ 10) :
    andThen (exec .decStart s) (readAll (List.replicate (p.length + 1) .serve)) =
      decRead .serve (s.reading (combineBytes 0 0 p) p.length l) := by
  rw [exec_decStart_reading hs, hsrc, andThen, List.replicate_succ', readAll_append,
    readAll_continues hp (by omega), Nat.zero_add]
  exact readAll_singleton _ _

/-- Settles O33: the call reads the bytes `Dec` reads, and ends with the read of the byte that ends `Dec`. -/
theorem decodeCallComputesDec : Obligations.DecodeCallComputesDec := by
  refine fun s hs => ⟨fun v k h => ?_, fun k h => ?_, fun k h => ?_⟩
  · cases decBytes_eq_iff.1 h with
    | ok p b rest hsrc hp hb hlen =>
      have hdrop : s.srcRest.drop (p.length + 1) = rest := hsrc ▸ drop_terminal p b rest
      rw [decodeCall_continues hs hsrc hp (by omega), decRead_reading hlen, hb, hdrop, combineBytes_concat,
        Nat.zero_add]
      rfl
  · cases decBytes_eq_iff.1 h with
    | overflow p b rest hsrc hp hlen =>
      have hdrop : s.srcRest.drop (p.length + 1) = rest := hsrc ▸ drop_terminal p b rest
      have hcall := decodeCall_continues hs hsrc hp (by omega)
      rw [hlen] at hcall hdrop
      refine ⟨.of (combineBytes 0 0 p), ?_⟩
      rw [hcall, decRead_serve_overflows rfl rfl (Nat.le_of_ble_eq_true rfl), ← hdrop]
      rfl
  · cases decBytes_eq_iff.1 h with
    | stream hl hlen =>
      refine ⟨.of (combineBytes 0 0 s.srcRest), ?_, rfl⟩
      rw [decodeCall_continues hs (List.append_nil _).symm hl hlen, decRead_starves rfl (.inr rfl)]
      rfl

/-! ## The outcomes in closed form (R148) -/

/-- The bytes before place `m` continue, read off place by place. -/
theorem continues_take_iff {l : List Byte} {m : Nat} :
    Continues (l.take m) ↔ ∀ (j : Nat) (b : Byte), j < m → l[j]? = some b → b.getLsbD 7 = true := by
  simp only [Continues, List.mem_iff_getElem?, List.getElem?_take, Option.ite_none_right_eq_some]
  exact ⟨fun h j b hj hb => h b ⟨j, hj, hb⟩, fun h b ⟨j, hj, hb⟩ => h j b hj hb⟩

/-- A list parted at a place within it. -/
theorem take_append_cons_drop {l : List Byte} {m : Nat} (hm : m < l.length) :
    l = l.take m ++ l[m] :: l.drop (m + 1) := by
  rw [← List.drop_eq_getElem_cons hm, List.take_append_drop]

/-- A successful decode, place by place (R148). -/
theorem decBytes_ok_iff (l : List Byte) (v : Value) (k : Nat) :
    decBytes l = .ok v k ↔
      1 ≤ k ∧ k ≤ 10 ∧ k ≤ l.length ∧ Continues (l.take (k - 1)) ∧
      (∀ b : Byte, l[k - 1]? = some b → b.getLsbD 7 = false) ∧ v = combineBytes 0 0 (l.take k) := by
  rw [decBytes_eq_iff]
  constructor
  · intro h
    cases h with
    | ok p b rest hl hp hb hlen =>
      subst hl
      have hlast : (p ++ b :: rest)[p.length + 1 - 1]? = some b := by simp
      refine ⟨by omega, by omega, by simp, by simpa using hp, fun c hc => ?_, by rw [take_terminal]⟩
      rw [hlast, Option.some.injEq] at hc
      exact hc ▸ hb
  · rintro ⟨hk, hten, hlen, hp, hb, rfl⟩
    obtain ⟨m, rfl⟩ := Nat.exists_eq_add_of_le' hk
    have hm : m < l.length := hlen
    have hpm : (l.take m).length = m := List.length_take_of_le (Nat.le_of_lt hm)
    have hread := DecodesAs.ok (l.take m) l[m] _ (take_append_cons_drop hm) hp (hb _ (List.getElem?_eq_getElem hm))
      (by omega)
    rwa [List.take_concat_get' _ _ hm, hpm] at hread

/-- Settles O34: each way to read a list, place by place. -/
theorem decodeOutcomesClosedForm : Obligations.DecodeOutcomesClosedForm := by
  refine fun l => ⟨fun v k => ?_, fun k => ?_, fun k => ?_⟩
  · rw [decBytes_ok_iff, continues_take_iff]
    simp only [Nat.lt_sub_iff_add_lt]
    rfl
  · have hcont : Continues (l.take 10) ↔ ∀ (j : Nat) (b : Byte), j ≤ 9 → l[j]? = some b → b.getLsbD 7 = true := by
      simp only [continues_take_iff, Nat.lt_succ_iff]
    rw [decBytes_eq_iff, ← hcont]
    constructor
    · intro h
      cases h with
      | overflow p b rest hl hp hlen =>
        subst hl
        exact ⟨rfl, by simp only [List.length_append, List.length_cons]; omega, by simpa [← hlen] using hp⟩
    · rintro ⟨rfl, hlen, hp⟩
      exact .overflow _ _ _ (take_append_cons_drop hlen) hp (List.length_take_of_le (by omega))
  · have hcont : Continues l ↔ ∀ (j : Nat) (b : Byte), l[j]? = some b → b.getLsbD 7 = true := by
      simp only [Continues, List.mem_iff_getElem?, forall_exists_index]
      exact forall_comm
    rw [decBytes_eq_iff, ← hcont]
    constructor
    · intro h
      cases h with
      | stream hl hlen => exact ⟨rfl, hlen, hl⟩
    · rintro ⟨rfl, hlen, hl⟩
      exact .stream hl hlen

/-! ## A list of bytes as a number (R133, R149) -/

/-- The number whose base-128 digits are the groups of the bytes, the lowest first (R15, R70). -/
def groupsNat (l : List Byte) : Nat := Nat.ofDigits 128 (l.map fun b => b.toNat % 128)

@[simp] theorem groupsNat_nil : groupsNat [] = 0 := rfl

@[simp] theorem groupsNat_cons (b : Byte) (l : List Byte) : groupsNat (b :: l) = b.toNat % 128 + 128 * groupsNat l :=
  Nat.ofDigits_cons

theorem groupsNat_concat (p : List Byte) (b : Byte) :
    groupsNat (p ++ [b]) = groupsNat p + 128 ^ p.length * (b.toNat % 128) := by
  simp [groupsNat, Nat.ofDigits_append]

theorem groupsNat_lt (l : List Byte) : groupsNat l < 128 ^ l.length := by
  rw [← List.length_map (fun b : Byte => b.toNat % 128)]
  refine Nat.ofDigits_lt_base_pow_length (by decide) fun x hx => ?_
  obtain ⟨b, -, rfl⟩ := List.mem_map.1 hx
  exact Nat.mod_lt _ (by decide)

/-- The bytes combined are the number of their groups mod 2^64, what is above bit 63 lost (R133, R143). -/
theorem combineBytes_toNat {acc : Value} {n : Nat} (hacc : acc.toNat < 2 ^ (7 * n)) (l : List Byte) :
    (combineBytes acc n l).toNat = (acc.toNat + groupsNat l * 2 ^ (7 * n)) % 2 ^ 64 := by
  induction l generalizing acc n with
  | nil => simpa using (Nat.mod_eq_of_lt acc.isLt).symm
  | cons b l ih =>
    have hpow : 2 ^ (7 * (n + 1)) = 128 * 2 ^ (7 * n) := by rw [Nat.mul_succ, Nat.pow_add, Nat.mul_comm]
    have hbyte : (combineByte acc n b).toNat = (acc.toNat + b.toNat % 128 * 2 ^ (7 * n)) % 2 ^ 64 := by
      rw [combineByte, or_group_toNat hacc, byteGroup_toNat]
    have hlt : (combineByte acc n b).toNat < 2 ^ (7 * (n + 1)) := by
      have hle := Nat.mod_le (acc.toNat + b.toNat % 128 * 2 ^ (7 * n)) (2 ^ 64)
      have hmul : b.toNat % 128 * 2 ^ (7 * n) ≤ 127 * 2 ^ (7 * n) := Nat.mul_le_mul_right _ (by omega)
      omega
    rw [combineBytes_cons, ih hlt, hbyte, Nat.mod_add_mod, groupsNat_cons, hpow]
    ring_nf

/-- Bytes whose number fits 64 bits are combined to that number (R133). -/
theorem combineBytes_toNat_of_lt {l : List Byte} (h : groupsNat l < 2 ^ 64) :
    (combineBytes 0 0 l).toNat = groupsNat l := by
  rw [combineBytes_toNat (by decide)]
  simpa using h

/-! ## The round trip (R149, R154) -/

/-- Induction along the bytes of an encoding: a value whose first byte is its last, and a value after the remaining one
(R102, R104). -/
theorem remNext_induction {P : Value → Prop} (last : ∀ v, isLast v = true → P v)
    (more : ∀ v, isLast v = false → P (remNext v) → P v) (v : Value) : P v :=
  match h : isLast v with
  | true => last v h
  | false => more v h (remNext_induction last more (remNext v))
termination_by v.toNat
decreasing_by
  have hv := (not_isLast_iff v).1 h
  rw [remNext_toNat]
  omega

/-- The continuation bit of an offered byte is clear exactly on the last one (R105, R131). -/
theorem contBit_emitByte (v : Value) : contBit (emitByte v) = !isLast v := contMux_getLsbD_seven _ _

/-- An encoding is bytes that continue and a terminal byte (R114). -/
theorem encBytes_split (v : Value) : ∃ p b, encBytes v = p ++ [b] ∧ Continues p ∧ contBit b = false := by
  induction v using remNext_induction with
  | last v h => exact ⟨[], emitByte v, encBytes_of_isLast h, continues_nil, by rw [contBit_emitByte, h]; rfl⟩
  | more v h ih =>
    obtain ⟨p, b, henc, hp, hb⟩ := ih
    exact ⟨emitByte v :: p, b, by rw [encBytes_of_not_isLast h, henc]; rfl,
      continues_cons.2 ⟨by rw [contBit_emitByte, h]; rfl, hp⟩, hb⟩

/-- The groups of an encoding are the base-128 digits of the value (R113, R116). -/
theorem groupsNat_encBytes (v : Value) : groupsNat (encBytes v) = v.toNat := by
  induction v using remNext_induction with
  | last v h =>
    have hv := (isLast_iff v).1 h
    rw [encBytes_of_isLast h, groupsNat_cons, groupsNat_nil, emitByte_toNat, if_pos hv]
    omega
  | more v h ih =>
    have hv := (not_isLast_iff v).1 h
    rw [encBytes_of_not_isLast h, groupsNat_cons, ih, remNext_toNat, emitByte_toNat, if_neg (by omega)]
    omega

/-- Settles O35: an encoding is read as its own bytes, and their groups are the digits of the value. -/
theorem roundTrip : Obligations.RoundTrip := by
  intro v t
  obtain ⟨p, b, henc, hp, hb⟩ := encBytes_split v
  have hlen : encLength v = p.length + 1 := by simp [← encBytes_length, henc]
  have hle := encLength_le_ten v
  have hvalue : combineBytes 0 0 (p ++ [b]) = v := by
    apply BitVec.eq_of_toNat_eq
    rw [← henc, combineBytes_toNat_of_lt (groupsNat_encBytes v ▸ v.isLt), groupsNat_encBytes]
  have hread := DecodesAs.ok p b t (l := encBytes v ++ t) (by simp [henc]) hp hb (by omega)
  rw [hvalue, ← hlen] at hread
  exact hread.decBytes_eq

/-- Settles O38: the value decoded from an encoding is the value encoded. -/
theorem reencodingADecodedEncoding : Obligations.ReencodingADecodedEncoding := by
  intro v w k h
  have htrip := roundTrip v []
  rw [List.append_nil, h] at htrip
  cases htrip
  rfl

/-! ## Canonical encodings (R155) -/

/-- The continuation bit is set on the bytes from 128 on (R131). -/
theorem contBit_eq_decide (b : Byte) : contBit b = decide (128 ≤ b.toNat) := by
  rw [contBit, ← BitVec.msb_eq_getLsbD_last (x := b), BitVec.msb_eq_decide]

/-- The encoding of a number is the bytes that continue and end in a terminal byte, the first or not 0, and have that
number (R117, R155). -/
theorem encBytes_of_groupsNat {p : List Byte} {b : Byte} {v : Value} (hp : Continues p) (hb : contBit b = false)
    (hzero : p = [] ∨ b ≠ 0) (hv : v.toNat = groupsNat (p ++ [b])) : encBytes v = p ++ [b] := by
  have hlt : b.toNat < 128 := by simpa [contBit_eq_decide] using hb
  induction p generalizing v with
  | nil =>
    have hvb : v.toNat = b.toNat := by simpa [Nat.mod_eq_of_lt hlt] using hv
    have hbyte : emitByte v = b := by
      apply BitVec.eq_of_toNat_eq
      rw [emitByte_toNat, if_pos (by omega)]
      omega
    rw [encBytes_of_isLast ((isLast_iff v).2 (by omega)), hbyte, List.nil_append]
  | cons c p ih =>
    obtain ⟨hc, hp⟩ := continues_cons.1 hp
    have hge : 128 ≤ c.toNat := by simpa [contBit_eq_decide] using hc
    have hc256 := c.isLt
    have hb0 : b ≠ 0 := hzero.resolve_left (List.cons_ne_nil c p)
    have hpos : 0 < groupsNat (p ++ [b]) := by
      have hbpos : 0 < b.toNat := Nat.pos_of_ne_zero fun h => hb0 (BitVec.eq_of_toNat_eq h)
      rw [groupsNat_concat, Nat.mod_eq_of_lt hlt]
      positivity
    rw [List.cons_append, groupsNat_cons] at hv
    have hbyte : emitByte v = c := by
      apply BitVec.eq_of_toNat_eq
      rw [emitByte_toNat, if_neg (by omega)]
      omega
    rw [encBytes_of_not_isLast ((not_isLast_iff v).2 (by omega)), hbyte,
      ih hp (.inr hb0) (by rw [remNext_toNat]; omega), List.cons_append]

/-- Bytes with a terminal byte that is 0 after the first are no encoding: one byte less is enough for their number
(R117, R155). -/
theorem terminal_ne_zero_of_encBytes {p : List Byte} {b : Byte} {v : Value} (hlen : 1 ≤ p.length)
    (henc : encBytes v = p ++ [b]) : b ≠ 0 := by
  rintro rfl
  have hnat : v.toNat = groupsNat p := by rw [← groupsNat_encBytes, henc, groupsNat_concat]; simp
  have hshort : encLength v ≤ p.length :=
    (encLength_le_iff v hlen).2 (by rw [hnat, Nat.pow_mul]; exact groupsNat_lt p)
  have hL : encLength v = p.length + 1 := by simp [← encBytes_length, henc]
  omega

/-- The bytes `p` that continue and the terminal byte `b` have a canonical length and end (R155). -/
def CanonicalEnd (p : List Byte) (b : Byte) : Prop :=
  p.length = 0 ∨ (1 ≤ p.length ∧ p.length ≤ 8 ∧ b ≠ 0x00#8) ∨ (p.length = 9 ∧ b = 0x01#8)

/-- A canonical terminal byte is the first or not 0. -/
theorem CanonicalEnd.nil_or_ne_zero {p : List Byte} {b : Byte} (h : CanonicalEnd p b) : p = [] ∨ b ≠ 0 := by
  rcases h with h0 | ⟨-, -, hb⟩ | ⟨-, rfl⟩
  · exact .inl (List.length_eq_zero_iff.1 h0)
  · exact .inr hb
  · exact .inr (by decide)

/-- Bytes with a canonical end have a number that fits 64 bits: 63 bits for nine bytes, and one more for a tenth. -/
theorem CanonicalEnd.groupsNat_lt {p : List Byte} {b : Byte} (h : CanonicalEnd p b) :
    groupsNat (p ++ [b]) < 2 ^ 64 := by
  have hp := Machine.groupsNat_lt p
  have hshort (hlen : p.length ≤ 8) : groupsNat (p ++ [b]) < 2 ^ 64 := calc
    groupsNat (p ++ [b]) < 128 ^ (p ++ [b]).length := Machine.groupsNat_lt _
    _ ≤ 128 ^ 9 := Nat.pow_le_pow_right (by decide) (by simpa using Nat.succ_le_succ hlen)
    _ ≤ 2 ^ 64 := by decide
  rcases h with h0 | ⟨-, h8, -⟩ | ⟨h9, rfl⟩
  · exact hshort (by omega)
  · exact hshort h8
  · rw [h9] at hp
    rw [groupsNat_concat, h9]
    simp only [BitVec.toNat_ofNat]
    omega

/-- An encoding has a canonical end (R115, R117). -/
theorem canonicalEnd_of_encBytes {p : List Byte} {b : Byte} {v : Value} (henc : encBytes v = p ++ [b]) :
    CanonicalEnd p b := by
  have hL : encLength v = p.length + 1 := by simp [← encBytes_length, henc]
  have hten := encLength_le_ten v
  rcases Nat.eq_zero_or_pos p.length with h0 | hpos
  · exact .inl h0
  rcases Nat.lt_or_ge p.length 9 with hlt | hge
  · exact .inr (.inl ⟨hpos, by omega, terminal_ne_zero_of_encBytes hpos henc⟩)
  · have h9 : p.length = 9 := by omega
    have hbyte := encBytes_getElem? (v := v) (i := p.length) (by omega)
    rw [henc, List.getElem?_concat_length, h9, encByteAt_nine (by omega), Option.some.injEq] at hbyte
    exact .inr (.inr ⟨h9, hbyte⟩)

/-- Settles O37: an encoding has a canonical end, and bytes with a canonical end are the encoding of their number. -/
theorem canonicalForm : Obligations.CanonicalForm := by
  intro l v k h
  cases decBytes_eq_iff.1 h with
  | ok p b rest hl hp hb hlen =>
    have hlast : l[p.length]? = some b := by simp [hl]
    have htake : l.take (p.length + 1) = p ++ [b] := hl ▸ take_terminal p b rest
    have hcanon : encBytes (combineBytes 0 0 (p ++ [b])) = p ++ [b] ↔ CanonicalEnd p b :=
      ⟨canonicalEnd_of_encBytes,
        fun hend => encBytes_of_groupsNat hp hb hend.nil_or_ne_zero (combineBytes_toNat_of_lt hend.groupsNat_lt)⟩
    have htenth (h9 : p.length = 9) : l[9]? = some 0x01#8 ↔ b = 0x01#8 := by rw [← h9, hlast, Option.some.injEq]
    rw [htake, hcanon, Nat.add_sub_cancel, hlast, ne_eq, Option.some.injEq]
    refine or_congr (by omega) (or_congr ?_ ?_)
    · rw [Nat.succ_le_succ_iff, Nat.succ_le_succ_iff]
    · exact ⟨fun ⟨h9, hb⟩ => ⟨congrArg (· + 1) h9, (htenth h9).2 hb⟩,
        fun ⟨h10, hb⟩ => ⟨Nat.succ.inj h10, (htenth (Nat.succ.inj h10)).1 hb⟩⟩

end Sys2Proof.Machine
end

section
/-! SUPPORT. Proof of the statement about several instances (60_exceptions.md): O56. -/

namespace Sys2Proof.Machine

/-! ## One step of the system (R187) -/

/-- A system step that goes on names no instance and moves nothing, or is the own step of the instance it names (R8, R187;
log 14). -/
theorem systemStep_cases {k : Nat} {y z : List State} (h : systemStep k y = .next z) :
    (y[k]? = none ∧ z = y) ∨ ∃ s t, y[k]? = some s ∧ step s = .next t ∧ z = y.set k t := by
  by_cases hnodup : (boundObjects y).Nodup
  case neg => simp [systemStep, hnodup] at h
  rw [systemStep, if_pos hnodup] at h
  cases hk : y[k]? with
  | none =>
    rw [hk] at h
    cases h
    exact .inl ⟨rfl, rfl⟩
  | some s =>
    cases hstep : step s with
    | next t =>
      simp only [hk, hstep] at h
      cases h
      exact .inr ⟨s, t, rfl, hstep, rfl⟩
    | fault f => simp [hk, hstep] at h
    | refused r => simp [hk, hstep] at h

/-- An instance replaced by one with the same two streams leaves the system's bindings as they were (R51). -/
theorem boundObjects_set {k : Nat} {y : List State} {s t : State} (hk : y[k]? = some s)
    (hsink : t.sinkObj = s.sinkObj) (hsrc : t.srcObj = s.srcObj) : boundObjects (y.set k t) = boundObjects y := by
  obtain ⟨hlt, rfl⟩ := List.getElem?_eq_some_iff.1 hk
  calc boundObjects (y.set k t) = boundObjects (y.set k y[k]) := by
        simp only [boundObjects, List.flatMap_def, List.map_set, hsink, hsrc]
    _ = boundObjects y := by rw [List.set_getElem_self]

/-- Settles O56: the system step replaces at most instance `k`, by the outcome of its own step, which keeps the
binding. -/
theorem instancesShareNothing : Obligations.InstancesShareNothing := by
  intro k y z h
  obtain ⟨hk, rfl⟩ | ⟨s, t, hk, hstep, rfl⟩ := systemStep_cases h
  · exact ⟨rfl, rfl, fun _ _ => rfl, fun s hs => by simp [hk] at hs⟩
  · obtain ⟨hsink, hsrc⟩ := step_keeps_binding hstep
    refine ⟨List.length_set, boundObjects_set hk hsink hsrc, fun j hj => List.getElem?_set_ne hj.symm, fun s' hs' => ?_⟩
    obtain ⟨hlt, -⟩ := List.getElem?_eq_some_iff.1 hk
    obtain rfl : s = s' := Option.some.inj (hk.symm.trans hs')
    exact ⟨t, hstep, List.getElem?_set_self hlt⟩

end Sys2Proof.Machine
end

section
/-! SUPPORT. Proofs of the statements about reset and hazards (70_reset_and_hazards.md): O43, O52, O51. -/

namespace Sys2Proof.Machine

/-! ## Leaving a busy engine (R202) -/

/-- Settles O43: each engine's moves from its busy state. -/
theorem onlyTheStreamOrResetLeavesABusyEngine : Obligations.OnlyTheStreamOrResetLeavesABusyEngine :=
  fun _ _ h => ⟨fun hs => or_rotate.1 ((step_encMove h).of_emitting hs),
    fun hs => or_rotate.1 ((step_decMove h).of_accumulating hs)⟩

/-! ## The marks of an illegal command (R28, R203) -/

/-- The step taken on a reset turn resets the block (R200). -/
theorem step_of_reset {s t : State} (h : step s = .next t) (hreset : (nextTurn s).1 = .reset) :
    t = (nextTurn s).2.resetBlock := by
  obtain ⟨-, hrun⟩ := step_cases h
  rw [hreset] at hrun
  cases hrun
  rfl

/-- An action of the host keeps the mark of CmdIllegal (R203; log 1). -/
theorem hostAct_keeps_faulted {i : HostItem} {s t : State} (h : hostAct i s = .next t) (hs : s.faulted = true) :
    t.faulted = true := by
  rcases hostAct_cases h with ⟨w, -, ho⟩ | ⟨-, -, ho⟩ | ⟨-, -, ho⟩ | ⟨-, l, ho⟩
  · obtain ⟨-, hmark⟩ := exec_illegalBits ho.symm
    simp [hmark, hs]
  · cases ho
    exact hs
  · cases ho
  · cases ho
    exact hs

/-- Every turn, reset too, keeps the mark of CmdIllegal (R203; log 1). -/
theorem runTurn_keeps_faulted {u : Turn} {s t : State} (h : runTurn u s = .next t) (hs : s.faulted = true) :
    t.faulted = true := by
  rcases runTurn_cases h with ⟨-, h⟩ | ⟨a, -, h⟩ | ⟨m, -, h⟩ | ⟨-, rfl⟩ | ⟨bs, -, -, rfl⟩ | ⟨l, -, -, rfl⟩
  · obtain ⟨-, -, -, -, -, -, -, -, hmark, -⟩ := nextItem_same s
    exact hostAct_keeps_faulted h (hmark.trans hs)
  · rw [encEmit_withEncPart h]
    exact hs
  · rw [decRead_withDecPart h]
    exact hs
  · exact hs
  · exact hs
  · exact hs

/-- Every step keeps the mark of CmdIllegal (R203; log 1). -/
theorem step_keeps_faulted {s t : State} (h : step s = .next t) (hs : s.faulted = true) : t.faulted = true := by
  obtain ⟨-, -, -, -, -, -, -, -, hmark, -⟩ := nextTurn_same s
  exact runTurn_keeps_faulted (step_cases h).2 (hmark.trans hs)

/-- The spec's model keeps a run that carries the mark at CmdIllegal (R203; log 22). -/
theorem specStep_of_faulted {s : State} (hs : s.faulted = true) : specStep s = .fault .cmdIllegal :=
  specStep_of_specFault ((specFault_cmdIllegal_iff s).2 hs)

/-- Settles O52: what each turn does to the sticky bit and to the mark, and the fault that mark is to the spec's
model. -/
theorem illegalMarksAreSticky : Obligations.IllegalMarksAreSticky := by
  refine fun s t => ⟨fun h => ⟨fun hs => ?_, fun hreset => ?_⟩,
    fun hs => ⟨?_, fun h => ⟨step_keeps_faulted h hs, fun _ _ => specStep_of_faulted hs⟩⟩⟩
  · obtain ⟨-, hkeeps⟩ := inadmissibleCommandsAreIgnored
    exact or_iff_not_imp_right.2 (hkeeps s t hs h)
  · rw [step_of_reset h hreset, State.resetBlock_cmdIllegal]
  · rw [specStep_of_faulted hs]
    nofun

/-! ## The reset turn (R200, R201) -/

/-- After a reset of the block STATUS is 0: it is a function of the registers reset (R31, R200). -/
theorem status_resetBlock (s : State) : s.resetBlock.status = 0x00000000#32 :=
  status_reset

/-- After a reset of the block no result is valid (R32, R200). -/
theorem decResultValid_resetBlock (s : State) : s.resetBlock.decResultValid = false := rfl

/-- Settles O51: the reset turn is the block's reset, and the ports are read off the registers it wrote. -/
theorem resetFromAnyState : Obligations.ResetFromAnyState := by
  refine fun s => ⟨rfl, fun t h => ?_⟩
  cases h
  exact ⟨status_resetBlock s, decResultValid_resetBlock s⟩

end Sys2Proof.Machine
end

section
/-! SUPPORT. Proofs of the statements about one step and the illegal command (00_scope.md, 40_command.md): O15, O6, O7,
O16. -/

namespace Sys2Proof.Machine

/-! ## The commands the table of R91 does not admit -/

/-- ENC.START is inadmissible exactly outside IDLE (R91). -/
theorem admissible_encStart_eq_false_iff (v : Value) (s : State) :
    admissible (.encStart v) s = false ↔ s.enc.state ≠ .idle := by
  simp [admissible]

/-- ENC.ACK is inadmissible exactly while no encode call has ended (R91). -/
theorem admissible_encAck_eq_false_iff (s : State) :
    admissible .encAck s = false ↔ s.enc.state = .idle ∨ s.enc.state = .emitting := by
  cases hs : s.enc.state <;> simp [admissible, hs]

/-- DEC.START is inadmissible exactly outside IDLE (R91). -/
theorem admissible_decStart_eq_false_iff (s : State) :
    admissible .decStart s = false ↔ s.dec.state ≠ .idle := by
  simp [admissible]

/-- DEC.ACK is inadmissible exactly while no decode call has ended (R91). -/
theorem admissible_decAck_eq_false_iff (s : State) :
    admissible .decAck s = false ↔ s.dec.state = .idle ∨ s.dec.state = .accumulating := by
  cases hs : s.dec.state <;> simp [admissible, hs]

/-- Whether a command is admissible depends on the two engines alone (R91). -/
theorem admissible_eq_of_engines_eq (i : Instr) {s s' : State} (henc : s'.enc = s.enc) (hdec : s'.dec = s.dec) :
    admissible i s' = admissible i s := by
  cases hop : (opOf i).getLsbD 2
  · exact admissible_eq_of_enc_eq hop henc
  · exact admissible_eq_of_dec_eq hop hdec

/-- Settles O16: each command named is one the table does not admit, so it is the illegal-command event. -/
theorem illegalCommandsGoOnWithTheStickyBit : Obligations.IllegalCommandsGoOnWithTheStickyBit :=
  fun s =>
    ⟨exec_of_not_admissible rfl, exec_of_not_admissible rfl, exec_of_not_admissible rfl,
      fun hs v => exec_of_not_admissible ((admissible_encStart_eq_false_iff v s).2 hs),
      fun hs => exec_of_not_admissible ((admissible_encAck_eq_false_iff s).2 hs),
      fun hs => exec_of_not_admissible ((admissible_decStart_eq_false_iff s).2 hs),
      fun hs => exec_of_not_admissible ((admissible_decAck_eq_false_iff s).2 hs)⟩

/-! ## The turn a step takes (R8) -/

/-- A step runs the first turn placed, in the state with the schedule shortened (R8; log 3). -/
theorem step_of_schedule {s : State} {u : Turn} {us : List Turn} (hobj : s.sinkObj ≠ s.srcObj)
    (h : s.schedule = u :: us) : step s = runTurn u { s with schedule := us } := by
  rw [step_of_distinct hobj, nextTurn_of_schedule h]
  rfl

/-- Where no turn is placed the next one is free, and the draw is counted (R8, V11; log 3). -/
theorem nextTurn_of_schedule_nil {s : State} (h : s.schedule = []) :
    nextTurn s = (Config.freeTurn s.draws, s.countDraw) := by
  simp [nextTurn, h]

/-- Settles O7: the turn taken is the first one placed or the free one, and a sink's turn is ENC.EMIT, a source's
DEC.READ. -/
theorem stepRunsTheTurn : Obligations.StepRunsTheTurn := by
  refine fun s hobj => ⟨fun _ _ h => step_of_schedule hobj h, fun h => ?_, fun _ _ h => step_of_schedule hobj h,
    fun _ _ h => step_of_schedule hobj h⟩
  rw [step_of_distinct hobj, nextTurn_of_schedule_nil h]
  rfl

/-! ## The placed command word (logs 9, 12) -/

/-- A numeral below 2^67 is a command word (R73). -/
theorem wordFits_of_lt {w : Nat} (hw : w < 2 ^ 67) : wordFits w = true := decide_eq_true hw

/-- A numeral below 2^67 is placed at the head of the script, with the host's turn at the head of the schedule (log 9). -/
theorem withFetchWord_of_lt (s : State) (nbits : Nat) {w : Nat} (hw : w < 2 ^ 67) :
    s.withFetchWord nbits w =
      (s.setScript (.present (BitVec.ofNat 67 w) :: s.script)).setSchedule (.host :: s.schedule) :=
  if_pos (wordFits_of_lt hw)

/-- Settles O6: the placed word is the one presented on the placed turn, and taking both gives back the state. -/
theorem placedCommandWordRunsNext : Obligations.PlacedCommandWordRunsNext := by
  refine fun s nbits w hobj hw => ⟨if_pos (wordFits_of_lt hw), ?_⟩
  rw [withFetchWord_of_lt s nbits hw]
  exact stepRunsThePresentedCommand _ _ s.schedule s.script hobj rfl rfl

/-! ## The steps that raise the mark of CmdIllegal (R92, R175; log 1) -/

/-- The next step is the host's, and presents a word whose command the table of R91 does not admit (R90, R92). -/
def State.PresentsInadmissible (s : State) : Prop :=
  (nextTurn s).1 = .host ∧
    ∃ w, (nextItem (nextTurn s).2).1 = .present w ∧ admissible (decode w) s = false

/-- An action of the host raises the mark exactly when it presents an inadmissible command (R92; log 1). -/
theorem hostAct_faulted_iff {i : HostItem} {s t : State} (h : hostAct i s = .next t) (hs : s.faulted = false) :
    t.faulted = true ↔ ∃ w, i = .present w ∧ admissible (decode w) s = false := by
  rcases hostAct_cases h with ⟨w, rfl, ho⟩ | ⟨hread, -, ho⟩ | ⟨-, -, ho⟩ | ⟨hi, l, ho⟩
  · obtain ⟨-, hmark⟩ := exec_illegalBits ho.symm
    simp [hmark, hs]
  · cases ho
    rcases hread with rfl | rfl <;> simp [hs]
  · cases ho
  · cases ho
    simp [hs, hi]

/-- A turn raises the mark exactly when it is the host's and presents an inadmissible command (R92; log 1). -/
theorem runTurn_faulted_iff {u : Turn} {s t : State} (h : runTurn u s = .next t) (hs : s.faulted = false) :
    t.faulted = true ↔ u = .host ∧ ∃ w, (nextItem s).1 = .present w ∧ admissible (decode w) s = false := by
  rcases runTurn_cases h with ⟨rfl, h⟩ | ⟨a, rfl, h⟩ | ⟨m, rfl, h⟩ | ⟨rfl, rfl⟩ | ⟨bs, rfl, -, rfl⟩ | ⟨l, rfl, -, rfl⟩
  · obtain ⟨henc, hdec, -, -, -, -, -, -, hmark, -⟩ := nextItem_same s
    simp [hostAct_faulted_iff h (hmark.trans hs), admissible_eq_of_engines_eq _ henc hdec]
  · rw [encEmit_withEncPart h]
    simp [State.withEncPart, hs]
  · rw [decRead_withDecPart h]
    simp [State.withDecPart, hs]
  all_goals simp [hs]

/-- A step raises the mark exactly when the host presents an inadmissible command (R90, R92; log 1). -/
theorem step_faulted_iff {s t : State} (h : step s = .next t) (hs : s.faulted = false) :
    t.faulted = true ↔ s.PresentsInadmissible := by
  obtain ⟨henc, hdec, -, -, -, -, -, -, hmark, -⟩ := nextTurn_same s
  simp [runTurn_faulted_iff (step_cases h).2 (hmark.trans hs), State.PresentsInadmissible,
    admissible_eq_of_engines_eq _ henc hdec]

/-- From a run without a model fault the spec's model judges the state the step goes on to (R175, R203). -/
theorem specStep_of_safe {s t : State} (hsafe : s.Safe) (h : step s = .next t) :
    specStep s = specOutcome (.next t) := by
  have hnone : s.specFault = none := hsafe
  simp [specStep, hnone, h]

/-- The spec's model faults at a state the hardware goes on to with that state's fault, and with no other (R12, R175). -/
theorem specOutcome_next_fault_iff (t : State) (f : Fault) :
    specOutcome (.next t) = .fault f ↔ t.specFault = some f := by
  rcases hf : t.specFault with _ | g <;> simp [specOutcome, hf]

/-- Settles O15: the step raises the mark exactly on an inadmissible command, the mark is the spec's fault CmdIllegal,
and within the invariants the step adds no other mark. -/
theorem modelFaultExactlyAtInadmissibleCommands : Obligations.ModelFaultExactlyAtInadmissibleCommands := by
  intro s t hsafe h inadmissible
  obtain ⟨hf, he, hd⟩ := (safe_iff s).1 hsafe
  have htable : s.PresentsInadmissible ↔ inadmissible := by
    refine and_congr_right' (exists_congr fun w => and_congr_right' ?_)
    cases decode w with
    | nop | reserved011 | reserved100 | reserved111 => simp [admissible]
    | encStart v => exact admissible_encStart_eq_false_iff v s
    | encAck => exact admissible_encAck_eq_false_iff s
    | decStart => exact admissible_decStart_eq_false_iff s
    | decAck => exact admissible_decAck_eq_false_iff s
  have hmark : t.faulted = true ↔ inadmissible := (step_faulted_iff h hf).trans htable
  refine ⟨hmark, ?_, fun henc hdec => ?_⟩
  · rw [specStep_of_safe hsafe h, specOutcome_next_fault_iff, specFault_cmdIllegal_iff, hmark]
  · have hsafe' : t.Safe ↔ t.faulted = false := by
      simp [safe_iff, step_keeps_encRemFaulted henc h, step_keeps_decAccFaulted hdec h, he, hd]
    rw [specStep_of_safe hsafe h, specOutcome_next_iff, and_iff_right rfl, hsafe', ← hmark, Bool.not_eq_true]

end Sys2Proof.Machine
end
